-- ==== Sys2Proof/Word.lean ====
section
/-! DEFINITION. The word types of the settings store block (00_scope.md R6, R8): every register and
every flash word has 32 bits, a version has 24 bits, a byte of the flash array has 8.
Unsigned arithmetic modulo 2^32 is BitVec's own `+`, `-`, `*`, `/`, `%` (R8, R90). -/

namespace Sys2Proof

/-- A 32-bit word: a register, a flash word, an address on a port (00_scope.md R6). -/
abbrev Word := BitVec 32

/-- One byte of the flash array (20_memory.md R43, the byte view). -/
abbrev Byte := BitVec 8

/-- A slot's version: "a 24-bit counter" (00_scope.md R6, 30_encoding.md R70). -/
abbrev Ver := BitVec 24

end Sys2Proof
end

