-- ==== Sys2Proof/Syntax.lean ====
section
/-! DEFINITION. The command set (30_encoding.md R74): one constructor per row of the opcode table.
Commands have no operand fields (R74, R76): every operand is a register the host set up before. -/

namespace Sys2Proof

/-- The five commands of 30_encoding.md R74. -/
inductive Instr where
  /-- CONFIGURE, 40_geometry_configure.md R100. -/
  | configure
  /-- READ, 41_scan_read.md R120. -/
  | read
  /-- WRITE, 42_write.md R130. -/
  | write
  /-- ERASE, 43_erase_reset.md R160. -/
  | erase
  /-- RESET, 43_erase_reset.md R165. -/
  | reset
  deriving DecidableEq, Repr

/-- The opcode `OPC` of a command, bits 2:0 of its `CMD` word (30_encoding.md R74). -/
def Instr.opc : Instr → BitVec 3
  | .configure => 1
  | .read => 2
  | .write => 3
  | .erase => 4
  | .reset => 5

/-- The one format `CMD` (30_encoding.md R74): a word as its two fields, before any check. -/
structure CmdWord where
  /-- Bits 31:3. -/
  zero : BitVec 29
  /-- Bits 2:0. -/
  opc : BitVec 3
  deriving DecidableEq, Repr

end Sys2Proof
end

