-- ==== Sys2Proof/WellFormed.lean ====
section
/-! DEFINITION. Which words of the format `CMD` are commands (30_encoding.md R74): bits 31:3 are zero
and the opcode is one of 1 to 5. The other checks a command meets are on the state, not on the word:
who may start it (30_encoding.md R77) and the premises `GeomOK` (00_scope.md R7), in Machine/Geometry.lean. -/

namespace Sys2Proof

/-- Bits 31:3 "must be written 0" (10_state.md R12, 30_encoding.md R74). -/
def CmdWord.zeroOk (c : CmdWord) : Bool := c.zero == 0

/-- The opcodes 0, 6 and 7 are reserved (30_encoding.md R74). -/
def CmdWord.opcOk (c : CmdWord) : Bool := 1 ≤ c.opc && c.opc ≤ 5

/-- A word of the format `CMD` that is a legal command word (30_encoding.md R74). -/
def CmdWord.wf (c : CmdWord) : Bool := c.zeroOk && c.opcOk

/-- The fields of the word a command is written as. -/
def Instr.toCmdWord (i : Instr) : CmdWord := ⟨0, i.opc⟩

/-- A command is well formed when its word is: it has no operand that could be out of range (R74). -/
def Instr.wf (i : Instr) : Bool := i.toCmdWord.wf

end Sys2Proof
end

