-- ==== Sys2Proof/Decode.lean ====
section
/-! DEFINITION. Decoding and encoding of command words (30_encoding.md R74, R78): one length, one
32-bit write to `CMD`, no mode that changes decoding. Every reserved word is refused by name. -/

namespace Sys2Proof

/-- Why a word written to `CMD` is no command (30_encoding.md R74, R77 item 1). -/
inductive DecodeError where
  /-- A nonzero bit in 31:3. -/
  | reservedBits
  /-- The opcode 0, 6 or 7. -/
  | reservedOpcode (opc : BitVec 3)
  deriving DecidableEq, Repr

/-- The fields of a word in the format `CMD`. -/
def CmdWord.ofWord (w : Word) : CmdWord := ⟨w.extractLsb' 3 29, w.extractLsb' 0 3⟩

/-- The word with the given fields. -/
def CmdWord.toWord (c : CmdWord) : Word := c.zero ++ c.opc

/-- The command with the given opcode (30_encoding.md R74). -/
def instrOfOpc (opc : BitVec 3) : Except DecodeError Instr :=
  if opc = 1 then .ok .configure
  else if opc = 2 then .ok .read
  else if opc = 3 then .ok .write
  else if opc = 4 then .ok .erase
  else if opc = 5 then .ok .reset
  else .error (.reservedOpcode opc)

/-- The command a word written to `CMD` names, or why it names none (30_encoding.md R74). -/
def decode (w : Word) : Except DecodeError Instr :=
  if (CmdWord.ofWord w).zeroOk then instrOfOpc (CmdWord.ofWord w).opc else .error .reservedBits

/-- The word the host writes to `CMD` to give a command (30_encoding.md R74). -/
def encode (i : Instr) : Word := i.toCmdWord.toWord

/-- `decode` on a word numbered as the opcode table numbers it: bits at and above `nbits` are 0. -/
def decodeTableWord (nbits w : Nat) : Option Instr :=
  match decode (BitVec.ofNat 32 (w % 2 ^ nbits)) with
  | .ok i => some i
  | .error _ => none

end Sys2Proof
end

