-- ==== Sys2Proof/Config.lean ====
section
/-! DEFINITION. What an implementation fixes (00_scope.md R6) and the free values: the answers and
draws of the environment (10_state.md R31, 70_reset_and_hazards.md R218), which nothing constrains. -/

namespace Sys2Proof

/-- How the environment answers a port call that may hang: it returns a boolean, or it never returns
(20_memory.md R47, R48, R50; 60_exceptions.md R180). `LockAcquire` does not look at the boolean. -/
inductive Reply where
  | returns (ok : Bool)
  | hangs
  deriving DecidableEq, Repr, Inhabited

/-- The CRC function of the CrcEngine (20_memory.md R55): the parameter of which nothing is known, or
the one the test vectors use (93_implementation_defined.md G1). -/
inductive CrcEngine where
  /-- `CRC_INIT` and `crc_step` are the opaque `Config.crcInit`, `Config.crcStep`. -/
  | parameter
  /-- The CRC of entry G1: start 0xFFFFFFFF, polynomial 0x04C11DB7, one word per step, no final xor. -/
  | g1
  deriving DecidableEq, Repr

/-- The parameters of one piece of hardware that the host does not set (00_scope.md R6). The machine
carries them unchanged, so that what is said of every state is said of every such hardware. -/
structure Params where
  /-- `pageSize`, the answer of `getPageSize()` (20_memory.md R49). -/
  pageSize : Word
  /-- `ERASED_WORD`, the content of a word after a successful erase. -/
  erasedWord : Word
  /-- `CRC_INIT` and `crc_step`. -/
  crc : CrcEngine
  /-- `KMAX`, the depth of each record buffer in words. -/
  kmax : Nat
  deriving DecidableEq, Repr

/-- `MAGIC`, the header tag (00_scope.md R6). -/
def Config.magic : Byte := 0xBE

/-- What a flash byte reads as that the memory does not list: a byte of the default `ERASED_WORD`
0xFFFFFFFF (00_scope.md R6). DESIGN CHOICE, log entry 4: the flash content at the start of a run is a
parameter of the run (70_reset_and_hazards.md R216). -/
def Config.blankByte : Byte := 0xFF

/-- Free value: `CRC_INIT` (20_memory.md R55). -/
opaque Config.crcInit : Word

/-- Free value: `crc_step` (20_memory.md R55), a function of its two arguments and nothing more. -/
opaque Config.crcStep : Word → Word → Word

/-- Free value: the `n`-th draw of the environment (00_scope.md R8, 70_reset_and_hazards.md R218). -/
opaque Config.draw : Nat → Word

/-- Free value: the environment's answer to the `n`-th call that may hang. -/
opaque Config.reply : Nat → Reply

/-- Free value: the `n`-th value the spec leaves unspecified (93_implementation_defined.md U6, U9, U13). -/
opaque Config.unspecified : Nat → Word

/-- Free value: `ENTRYCOUNT` when CONFIGURE divides by `slotBytes = 0` (40_geometry_configure.md R90,
R100), a function of the dividend. -/
opaque Config.divByZero : Word → Word

end Sys2Proof
end

