-- ==== Sys2Proof/Machine/State.lean ====
section
/-! DEFINITION. The state of the settings store block as plain data (10_state.md R10 to R30), the
state of the collaborators it uses (R30), the environment's and host's moves still to come
(70_reset_and_hazards.md R216 to R218), and the state after power loss (R32, R190). -/

namespace Sys2Proof.Machine

open Sys2Proof

/-- `RESULT.KIND`: how a command ended (60_exceptions.md R170). -/
inductive Kind where
  | ok
  | configError
  | notFound
  | ioError
  deriving DecidableEq, Repr

/-- `RESULT.FOP`: the flash operation that failed (10_state.md R14). -/
inductive FlashOp where
  | none
  | pageErase
  | wordProgram
  deriving DecidableEq, Repr

/-- The lines of CONFIGURE (40_geometry_configure.md R100). -/
inductive CLine where
  | c1 | c2 | c3 | c4 | c5 | c6
  deriving DecidableEq, Repr

/-- The lines of the routine `SCAN` (41_scan_read.md R113); `s7crc`, `s7trailer`, `s7keep` are the
three statements of S7. -/
inductive ScanLine where
  | s1 | s2 | s3 | s4 | s5 | s6 | s7crc | s7trailer | s7keep | s8 | s9
  deriving DecidableEq, Repr

/-- The lines of READ (41_scan_read.md R120): RD1's test and its `raise`, RD2's loop (its start, its
body), RD3. -/
inductive RLine where
  | rd1 | rd1NotFound | rd2start | rd2copy | rd3
  deriving DecidableEq, Repr

/-- The lines of WRITE (42_write.md R130), one per statement that makes a port event. -/
inductive WLine where
  | w1 | w2 | w3 | w3erase | w3raise | w4
  | w5reset | w5program | w5feed
  | w6start | w6test | w6program | w6feed
  | w7start | w7test | w7draw | w7program | w7feed
  | w8value | w8program | w9 | w10release | w10complete
  | wfRelease | wfRaise
  deriving DecidableEq, Repr

/-- The lines of ERASE (43_erase_reset.md R160). -/
inductive ELine where
  | e1 | e2 | e3start | e3test | e3erase | e3release | e3raise | e4release | e4complete
  deriving DecidableEq, Repr

/-- The lines of RESET (43_erase_reset.md R165). -/
inductive XLine where
  | x1 | x2
  deriving DecidableEq, Repr

/-- Which command called `SCAN`: it can be reached only through READ and WRITE (41_scan_read.md R113). -/
inductive Caller where
  | read
  | write
  deriving DecidableEq, Repr

/-- `PH`, the phase register: `IDLE` or the label of the next line of the running command
(10_state.md R27). -/
inductive Phase where
  | idle
  | configure (l : CLine)
  | scan (c : Caller) (l : ScanLine)
  | read (l : RLine)
  | write (l : WLine)
  | erase (l : ELine)
  | reset (l : XLine)
  deriving DecidableEq, Repr

/-- The working registers (10_state.md R28): written and read only by the running command, dead when
`PH = IDLE`. -/
structure Work where
  /-- Slot index in a scan, word index in a write (and in READ's copy), page index in an erase. -/
  i : Word
  /-- `BF`, `BLOC`, `BVER`: the best candidate of a scan. -/
  bf : Bool
  bloc : Word
  bver : Ver
  /-- `NLOC`, `NVER`: the slot and version a WRITE is producing. -/
  nloc : Word
  nver : Ver
  /-- The address of the next word. -/
  a : Word
  /-- Header, trailer, CRC and filler word in flight. -/
  h : Word
  t : Word
  c : Word
  w : Word
  deriving DecidableEq, Repr

/-- A completed port operation, seen at the block's boundary (00_scope.md R8; the names of
95_test_vectors.md section 1). -/
inductive Event where
  /-- `RD(a)->v`, 20_memory.md R46. -/
  | memRead (addr v : Word)
  /-- `WP(a,v)->ok`, R47. -/
  | memWrite (addr v : Word) (ok : Bool)
  /-- `PE(a)->ok`, R48. -/
  | flashErase (addr : Word) (ok : Bool)
  /-- `PS->p`, R49. -/
  | flashPageSize (p : Word)
  /-- `LA`, R50. -/
  | lockAcquire
  /-- `LR`, R51. -/
  | lockRelease
  /-- `CR`, R56. -/
  | crcReset
  /-- `CA(w)`, R57. -/
  | crcAcc (w : Word)
  /-- `CV->v`, R58. -/
  | crcValue (v : Word)
  /-- `CB(a,n)->v`, R59. -/
  | crcBlock (addr : Word) (n : Nat) (v : Word)
  /-- `RN->v`, R60. -/
  | rngNext (v : Word)
  deriving DecidableEq, Repr

/-- A move of the host or of the environment (70_reset_and_hazards.md R217, R218) that is not an
answer to a port call. -/
inductive Move where
  /-- The host reads the register at a byte offset (10_state.md R11). -/
  | hostRead (off : Word)
  /-- The host writes the register at a byte offset (10_state.md R11); at offset 0 this gives a command. -/
  | hostWrite (off v : Word)
  /-- The environment changes one word of the flash (20_memory.md R67). -/
  | setFlash (addr v : Word)
  /-- Power is lost (70_reset_and_hazards.md R190). -/
  | powerLoss
  deriving DecidableEq, Repr

/-- A move and the number of lines the running command still executes before it lands. -/
structure Timed where
  after : Nat
  move : Move
  deriving DecidableEq, Repr

/-- The other two parties of a run (20_memory.md R61; 70_reset_and_hazards.md R216 to R218). The
model's own: the block holds none of it. -/
structure Env where
  /-- The moves still to come, the next one first. -/
  moves : List Timed
  /-- The first answers to the calls that may hang; the ones after them are `Config.reply`. -/
  replies : List Reply
  /-- How many answers have been given. -/
  replyIx : Nat
  /-- The first draws; the ones after them are `Config.draw`. -/
  draws : List Word
  /-- How many draws have been made. -/
  drawIx : Nat
  /-- How many unspecified values (`Config.unspecified`) have been used. -/
  unspecIx : Nat
  /-- What the host's reads returned, in order (70_reset_and_hazards.md R216). -/
  reads : List Word
  deriving DecidableEq, Repr

/-- The flash array `F` (20_memory.md R41) as the bytes that differ from `Config.blankByte`, at
strictly rising addresses. -/
abbrev Memory := List Host.Cell

/-- The state: the block's own (10_state.md R10), what it uses but does not own (R30), the parameters
of the hardware (R31), and what the model adds to know which move comes next and what was seen. -/
structure State where
  /-- `PH`; `STATUS.BUSY` is `PH ≠ IDLE` (10_state.md R27). -/
  ph : Phase
  /-- `STATUS.CFGD` (R13). -/
  cfgd : Bool
  /-- `STATUS.CURV` (R13, R26). -/
  curv : Bool
  /-- `STATUS.ILLCMD` (R13). -/
  illcmd : Bool
  /-- `LOCKH`, `STATUS` bit 4 (R13, R29). -/
  lockh : Bool
  /-- `RESULT.KIND` (R14). -/
  kind : Kind
  /-- `RESULT.FOP` (R14). -/
  fop : FlashOp
  /-- `RESULT.LASTOP` (R14): no command has completed since power loss, or which one. -/
  lastOp : Option Instr
  /-- `ERRADDR` (R15). -/
  errAddr : Word
  /-- `FIRSTLOC` (R16). -/
  firstLoc : Word
  /-- `PAGECOUNT` (R17). -/
  pageCount : Word
  /-- `RECBYTES` (R18). -/
  recBytes : Word
  /-- `PAGESIZE` (R19). -/
  pageSize : Word
  /-- `SLOTBYTES` (R20). -/
  slotBytes : Word
  /-- `ENTRYCOUNT` (R21). -/
  entryCount : Word
  /-- `CURLOC` (R22). -/
  curLoc : Word
  /-- `CURVER` (R23), bits 23:0. -/
  curVer : Ver
  /-- `WREC[0 .. KMAX-1]` (R24). -/
  wrec : List Word
  /-- `RREC[0 .. KMAX-1]` (R25). -/
  rrec : List Word
  /-- The working registers (R28). -/
  wk : Work
  /-- The flash array `F`, owned by the FlashDevice (R30, 20_memory.md R41). -/
  mem : Memory
  /-- The flash controller's lock is held by this block, as the FlashDevice sees it (R30,
  20_memory.md R50, R51). -/
  ctrlHeld : Bool
  /-- The CRC accumulator `acc`, owned by the CrcEngine (R30, 20_memory.md R55). -/
  acc : Word
  /-- The port call of the line `PH` names was issued and never returns (60_exceptions.md R180). -/
  hung : Bool
  /-- The parameters of the hardware (R31, 00_scope.md R6). -/
  hw : Params
  /-- The host and the environment (the model's own). -/
  env : Env
  /-- The port events so far, in order (70_reset_and_hazards.md R216; the model's own). -/
  trace : List Event
  deriving DecidableEq, Repr

/-- Why the machine stops. Under `GeomOK` no run reaches any of these (20_memory.md R42, R44). -/
inductive Fault where
  /-- A `MemRead`, `MemWrite` or `CrcBlock` at an address that is no multiple of 4: there is no such
  word in `F` (20_memory.md R41, R44). Raised by the port operations of Machine/Ops.lean. Safe: the
  machine stops where the spec says the access never happens. -/
  | misalignedFlash
  /-- A `FlashErase` at an address that is not the first byte of a page (20_memory.md R44, R48).
  Raised by `flashErase`. Safe, as above. -/
  | notAPage
  /-- A record buffer word at an index `KMAX` or above, which does not exist (10_state.md R24, R25).
  Raised by READ's copy and WRITE's payload. Safe, as above. -/
  | noSuchBufferWord
  deriving DecidableEq, Repr

/-- Why the model gives a move no meaning. -/
inductive Refusal where
  /-- No meaning for the instruction yet. Raised by exec's refused arms only. Safe. -/
  | notModelled (mnemonic : String)
  /-- READ, WRITE or ERASE with a configuration outside `GeomOK`: "gives no meaning to a run outside
  it (`refuse`)" (00_scope.md R7). Raised by the three commands' meanings. Safe. -/
  | outsideGeomOK
  /-- A host access at an offset that is no multiple of 4: "not part of the interface (a model refuses
  them)" (10_state.md R11). Raised by the host's moves. Safe. -/
  | misalignedHostAccess
  /-- The environment changes the flash while a command runs: excluded by 20_memory.md R67
  (93_implementation_defined.md U19, `refuse`). Raised by the environment's move. Safe. -/
  | flashChangedWhileBusy
  /-- The environment changes a word at an address that is no multiple of 4: no word of `F`
  (20_memory.md R41). Raised by the environment's move. Safe. -/
  | misalignedFlashChange
  deriving DecidableEq, Repr

/-- One step's result. -/
abbrev Result := Host.Outcome State Fault Refusal

/-- The working registers at the model's reset (10_state.md R32 leaves them unspecified). DESIGN
CHOICE, log entry 3. -/
def Work.zero : Work :=
  { i := 0, bf := false, bloc := 0, bver := 0, nloc := 0, nver := 0, a := 0, h := 0, t := 0, c := 0, w := 0 }

/-- No move pending, nothing answered, drawn or read. DESIGN CHOICE, log entry 7. -/
def Env.start : Env :=
  { moves := [], replies := [], replyIx := 0, draws := [], drawIx := 0, unspecIx := 0, reads := [] }

/-- The hardware `State.reset` is an instance of: the page size of D0's example, the default
`ERASED_WORD`, the deepest buffers, the unknown CRC function. DESIGN CHOICE, log entry 2. -/
def Params.example : Params :=
  { pageSize := 1024, erasedWord := 0xFFFFFFFF, crc := .parameter, kmax := 1024 }

/-- The machine right after power loss (10_state.md R32, 70_reset_and_hazards.md R190). The values
R32 leaves unspecified (`WREC`, `RREC`, working registers, `acc`) are zero: DESIGN CHOICE, log entry 3. -/
def State.reset : State :=
  { ph := .idle, cfgd := false, curv := false, illcmd := false, lockh := false,
    kind := .ok, fop := .none, lastOp := none, errAddr := 0,
    firstLoc := 0, pageCount := 0, recBytes := 0, pageSize := 0, slotBytes := 0, entryCount := 0,
    curLoc := 0, curVer := 0,
    wrec := List.replicate Params.example.kmax 0, rrec := List.replicate Params.example.kmax 0,
    wk := Work.zero, mem := [], ctrlHeld := false, acc := 0, hung := false,
    hw := Params.example, env := Env.start, trace := [] }

end Sys2Proof.Machine
end

