-- ==== Sys2Proof/Machine/Geometry.lean ====
section
/-! DEFINITION. The slot-geometry address generator (40_geometry_configure.md R90 to R98), the
header word (30_encoding.md R70) and the premises `GeomOK` (00_scope.md R7). -/

namespace Sys2Proof.Machine

open Sys2Proof

/-- The ranges 00_scope.md R6 gives the parameters: the top byte of `ERASED_WORD` is not the magic
byte, and `0 <= KMAX <= 1024`. -/
def paramsOk (p : Params) : Bool :=
  p.erasedWord.extractLsb' 24 8 != Config.magic && decide (p.kmax ≤ 1024)

/-- One smear of `NextPow2` (40_geometry_configure.md R91). -/
def smear (v : Word) (k : Nat) : Word := v ||| (v >>> k)

/-- `NextPow2(v)`: decrement, smear, increment (40_geometry_configure.md R91). -/
def nextPow2 (v : Word) : Word :=
  smear (smear (smear (smear (smear (v - 1) 1) 2) 4) 8) 16 + 1

/-- `slotBytes = NextPow2(recordBytes + 8)` (40_geometry_configure.md R92). -/
def slotBytesOf (recBytes : Word) : Word := nextPow2 (recBytes + 8)

/-- `entryCount = (pageSize * pageCount) / slotBytes` (40_geometry_configure.md R94). A division by
zero, which R90 leaves without a value, gives a free value (log entry 9). -/
def entryCountOf (pageSize pageCount slotBytes : Word) : Word :=
  if slotBytes = 0 then Config.divByZero (pageSize * pageCount) else pageSize * pageCount / slotBytes

/-- `N = slotBytes / 4`, the words of a slot (40_geometry_configure.md R93). -/
def State.slotWords (s : State) : Word := s.slotBytes / 4

/-- `K = recordBytes / 4`, the payload words (40_geometry_configure.md R93). -/
def State.payloadWords (s : State) : Word := s.recBytes / 4

/-- `FillerCount = N - K - 2` (40_geometry_configure.md R93). -/
def State.fillerCount (s : State) : Word := s.slotWords - s.payloadWords - 2

/-- `SlotAddr(i)` (40_geometry_configure.md R95). -/
def State.slotAddr (s : State) (i : Word) : Word := s.firstLoc + i * s.slotBytes

/-- `NextLoc(loc)`, with the ring wrap (40_geometry_configure.md R96). -/
def State.nextLoc (s : State) (loc : Word) : Word :=
  if s.entryCount * s.slotBytes ≤ loc + s.slotBytes - s.firstLoc then s.firstLoc else loc + s.slotBytes

/-- `PageStart(loc)` (40_geometry_configure.md R97). -/
def State.pageStart (s : State) (loc : Word) : Bool := (loc - s.firstLoc) % s.pageSize == 0

/-- `PageAddr(p)` (40_geometry_configure.md R98). -/
def State.pageAddr (s : State) (p : Word) : Word := s.firstLoc + p * s.pageSize

/-- `Header(ver) = 0xBE000000 | ver` (30_encoding.md R70). -/
def header (ver : Ver) : Word := Config.magic ++ ver

/-- `magic(h) = h[31:24]` (30_encoding.md R70). -/
def headerMagic (h : Word) : Byte := h.extractLsb' 24 8

/-- `version(h) = h[23:0]` (30_encoding.md R70). -/
def headerVersion (h : Word) : Ver := h.extractLsb' 0 24

/-- `NVER = (CURVER + 1) mod 2^24` (42_write.md R133). -/
def nextVersion (v : Ver) : Ver := v + 1

/-- The quantities `GeomOK` speaks of (00_scope.md R7). -/
structure Geometry where
  firstLoc : Word
  pageCount : Word
  recBytes : Word
  pageSize : Word
  kmax : Nat
  deriving DecidableEq, Repr

/-- P1: `firstLocation mod pageSize = 0`. -/
def Geometry.p1 (g : Geometry) : Bool := g.firstLoc.toNat % g.pageSize.toNat == 0

/-- P2: `pageCount >= 1`. -/
def Geometry.p2 (g : Geometry) : Bool := decide (1 ≤ g.pageCount.toNat)

/-- P3: `pageSize >= 8` and `pageSize` is a power of two. -/
def Geometry.p3 (g : Geometry) : Bool :=
  decide (8 ≤ g.pageSize.toNat) && (List.range 32).any fun k => g.pageSize.toNat == 2 ^ k

/-- P4: `recordBytes <= 0x7FFFFFF8`. -/
def Geometry.p4 (g : Geometry) : Bool := decide (g.recBytes.toNat ≤ 0x7FFFFFF8)

/-- P5: `slotBytes <= pageSize`. -/
def Geometry.p5 (g : Geometry) : Bool := decide ((slotBytesOf g.recBytes).toNat ≤ g.pageSize.toNat)

/-- P6: the Region does not wrap the address space (exact products). -/
def Geometry.p6 (g : Geometry) : Bool :=
  decide (g.pageCount.toNat * g.pageSize.toNat < 2 ^ 32) &&
    decide (g.firstLoc.toNat + g.pageCount.toNat * g.pageSize.toNat ≤ 2 ^ 32)

/-- P7: the record fits the buffers. -/
def Geometry.p7 (g : Geometry) : Bool := decide (g.recBytes.toNat ≤ 4 * g.kmax)

/-- `GeomOK` (00_scope.md R7). -/
def Geometry.ok (g : Geometry) : Bool := g.p1 && g.p2 && g.p3 && g.p4 && g.p5 && g.p6 && g.p7

/-- The geometry a configured block works with: the host's registers and the latched page size. -/
def State.geometry (s : State) : Geometry :=
  ⟨s.firstLoc, s.pageCount, s.recBytes, s.pageSize, s.hw.kmax⟩

/-- `GeomOK` of the running configuration. -/
def State.geomOK (s : State) : Bool := s.geometry.ok

end Sys2Proof.Machine
end

