-- ==== Sys2Proof/Machine/Memory.lean ====
section
/-! DEFINITION. The flash array as data: bytes in one canonical form, words made of four bytes
(20_memory.md R41, R43), runs of words (a page). -/

namespace Sys2Proof.Machine

open Sys2Proof

/-- The canonical form from address `lo` on: strictly rising addresses below 2^32, no blank byte listed. -/
def Memory.wfFrom (lo : Nat) : Memory → Bool
  | [] => true
  | (a, b) :: m => decide (lo ≤ a) && decide (a < 2 ^ 32) && b != Config.blankByte && Memory.wfFrom (a + 1) m

/-- The canonical form of the flash array. -/
def Memory.wf (m : Memory) : Bool := Memory.wfFrom 0 m

/-- The byte at address `a`. -/
def Memory.readByte (a : Nat) : Memory → Byte
  | [] => Config.blankByte
  | (x, b) :: m => if x = a then b else Memory.readByte a m

/-- The memory with the byte `v` at address `a`, in canonical form again. -/
def Memory.writeByte (a : Nat) (v : Byte) : Memory → Memory
  | [] => if v = Config.blankByte then [] else [(a, v)]
  | (x, b) :: m =>
    if x < a then (x, b) :: Memory.writeByte a v m
    else if x = a then (if v = Config.blankByte then m else (a, v) :: m)
    else if v = Config.blankByte then (x, b) :: m else (a, v) :: (x, b) :: m

/-- The address of byte `k` of the word at `addr`. -/
def byteAddr (addr : Word) (k : Nat) : Nat := (addr + BitVec.ofNat 32 k).toNat

/-- Byte `k` of a word: bits `8k+7 : 8k` (20_memory.md R43, little-endian; DEDUCED, log entry 5). -/
def byteOf (v : Word) (k : Nat) : Byte := v.extractLsb' (8 * k) 8

/-- `F[addr]`, the word at byte address `addr` (20_memory.md R41). -/
def Memory.readWord (m : Memory) (addr : Word) : Word :=
  m.readByte (byteAddr addr 3) ++ m.readByte (byteAddr addr 2) ++ m.readByte (byteAddr addr 1)
    ++ m.readByte (byteAddr addr 0)

/-- `F[addr] <- v`. -/
def Memory.writeWord (m : Memory) (addr v : Word) : Memory :=
  (((m.writeByte (byteAddr addr 0) (byteOf v 0)).writeByte (byteAddr addr 1) (byteOf v 1)).writeByte
    (byteAddr addr 2) (byteOf v 2)).writeByte (byteAddr addr 3) (byteOf v 3)

/-- The address of word `k` after `addr`. -/
def wordAddr (addr : Word) (k : Nat) : Word := addr + BitVec.ofNat 32 (4 * k)

/-- The `n` words from `addr` on. -/
def Memory.readWords (m : Memory) (addr : Word) (n : Nat) : List Word :=
  (List.range n).map fun k => m.readWord (wordAddr addr k)

/-- Word `k` of the `n` words from `addr` on becomes `f k`. -/
def Memory.fillWords (m : Memory) (addr : Word) (f : Nat → Word) : Nat → Memory
  | 0 => m
  | n + 1 => (Memory.fillWords m addr f n).writeWord (wordAddr addr n) (f n)

end Sys2Proof.Machine
end

