-- ==== Sys2Proof/Machine/Ops.lean ====
section
/-! DEFINITION. The operations every line is made of: the named updates of the state, the answers of
the environment, the eleven port operations (20_memory.md R46 to R60), and how a command ends,
`complete OK` and `raise` being one operation (60_exceptions.md R172). There is no return from an
error: a command ends and the block is idle (R177). -/

namespace Sys2Proof.Machine

open Sys2Proof

/-! The environment's answers. -/

/-- The answer to the `k`-th call from now that may hang. -/
def Env.replyAt (e : Env) (k : Nat) : Reply :=
  (e.replies[e.replyIx + k]?).getD (Config.reply (e.replyIx + k))

/-- The `k`-th draw from now (00_scope.md R8). -/
def Env.drawAt (e : Env) (k : Nat) : Word :=
  (e.draws[e.drawIx + k]?).getD (Config.draw (e.drawIx + k))

/-- The `k`-th unspecified value from now. -/
def Env.unspecAt (e : Env) (k : Nat) : Word := Config.unspecified (e.unspecIx + k)

/-! Named updates of the state. -/

/-- `PH <- label` (00_scope.md R8). -/
def State.goto (s : State) (p : Phase) : State := { s with ph := p }

/-- New working registers. -/
def State.setWork (s : State) (w : Work) : State := { s with wk := w }

/-- One port event has happened. -/
def State.emit (s : State) (e : Event) : State := { s with trace := s.trace ++ [e] }

/-- The flash array is now `m`. -/
def State.setMem (s : State) (m : Memory) : State := { s with mem := m }

/-- The CRC accumulator is now `v`. -/
def State.setAcc (s : State) (v : Word) : State := { s with acc := v }

/-- The sticky flag `ILLCMD` (30_encoding.md R77). -/
def State.illegal (s : State) : State := { s with illcmd := true }

/-- The call of this line never returns (60_exceptions.md R180). -/
def State.hang (s : State) : State := { s with hung := true }

/-- Both views of the flash controller's lock (20_memory.md R50, R51). -/
def State.setLock (s : State) (b : Bool) : State := { s with lockh := b, ctrlHeld := b }

/-- The Cursor is forgotten (10_state.md R26): `CURLOC` and `CURVER` keep their bits (R22). -/
def State.forgetCursor (s : State) : State := { s with curv := false }

/-- The Cursor is known (10_state.md R26). -/
def State.setCursor (s : State) (loc : Word) (ver : Ver) : State :=
  { s with curv := true, curLoc := loc, curVer := ver }

/-- One answer was used. -/
def State.useReply (s : State) : State := { s with env := { s.env with replyIx := s.env.replyIx + 1 } }

/-- `n` draws were made. -/
def State.useDraws (s : State) (n : Nat) : State :=
  { s with env := { s.env with drawIx := s.env.drawIx + n } }

/-- `n` unspecified values were used. -/
def State.useUnspec (s : State) (n : Nat) : State :=
  { s with env := { s.env with unspecIx := s.env.unspecIx + n } }

/-- `acc` is unspecified from here on (20_memory.md R59, 42_write.md R140): a free value. -/
def State.accUnspecified (s : State) : State := (s.setAcc (s.env.unspecAt 0)).useUnspec 1

/-! How a command ends. -/

/-- The command a line belongs to. -/
def Phase.command : Phase → Option Instr
  | .idle => none
  | .configure _ => some .configure
  | .scan .read _ => some .read
  | .scan .write _ => some .write
  | .read _ => some .read
  | .write _ => some .write
  | .erase _ => some .erase
  | .reset _ => some .reset

/-- `STATUS.BUSY`: 0 exactly when `PH = IDLE` (10_state.md R27). -/
def State.busy (s : State) : Bool := s.ph != .idle

/-- `Complete(kind, fop, addr)`, the last step of every command (60_exceptions.md R172): `RESULT`,
`ERRADDR`, `PH <- IDLE` (hence `BUSY <- 0`), nothing else. -/
def State.finish (s : State) (kind : Kind) (fop : FlashOp) (addr : Word) : State :=
  { s with kind := kind, fop := fop, lastOp := s.ph.command, errAddr := addr, ph := .idle }

/-- `complete OK` (60_exceptions.md R172). -/
def complete (s : State) : Result := .next (s.finish .ok .none 0)

/-- `raise <Kind>(fop, addr)`: the block's only exception, a command that ends with an error kind
(00_scope.md R8, 60_exceptions.md R172). -/
def raise (kind : Kind) (fop : FlashOp) (addr : Word) (s : State) : Result :=
  .next (s.finish kind fop addr)

/-! The FlashDevice port (20_memory.md R46 to R51). -/

/-- An address of a word of `F`: a multiple of 4 (20_memory.md R41, R44). -/
def aligned (addr : Word) : Bool := addr.toNat % 4 == 0

/-- `MemRead(addr, 4) -> v` (R46); `k` is what the line does with `v`. -/
def memRead (addr : Word) (s : State) (k : Word → State → State) : Result :=
  if aligned addr then
    .next (k (s.mem.readWord addr) (s.emit (.memRead addr (s.mem.readWord addr))))
  else .fault .misalignedFlash

/-- The word at `addr` is blank: it holds `ERASED_WORD` (R47). -/
def State.blank (s : State) (addr : Word) : Bool := s.mem.readWord addr == s.hw.erasedWord

/-- What `wordProgram(addr, v)` that returned `ok` leaves in the flash (R47): `v` in a blank word; a
draw when the word was not blank or the program failed. -/
def State.programmed (s : State) (addr v : Word) (ok : Bool) : State :=
  if ok && s.blank addr then s.setMem (s.mem.writeWord addr v)
  else (s.setMem (s.mem.writeWord addr (s.env.drawAt 0))).useDraws 1

/-- `MemWrite(addr, 4, v) -> ok` (R47); the line goes on at `onOk` or `onFail`. -/
def memWrite (addr v : Word) (onOk onFail : Phase) (s : State) : Result :=
  if aligned addr then
    match s.env.replyAt 0 with
    | .hangs => .next s.useReply.hang
    | .returns ok =>
      .next (((s.useReply.programmed addr v ok).emit (.memWrite addr v ok)).goto (if ok then onOk else onFail))
  else .fault .misalignedFlash

/-- The words of a page of this device. -/
def State.deviceWords (s : State) : Nat := s.hw.pageSize.toNat / 4

/-- The page at `addr` with a draw in every word (R48, 70_reset_and_hazards.md R191). -/
def State.scramblePage (s : State) (addr : Word) : State :=
  (s.setMem (s.mem.fillWords addr s.env.drawAt s.deviceWords)).useDraws s.deviceWords

/-- The page at `addr` with `ERASED_WORD` in every word (R48). -/
def State.blankPage (s : State) (addr : Word) : State :=
  s.setMem (s.mem.fillWords addr (fun _ => s.hw.erasedWord) s.deviceWords)

/-- What `pageErase(addr)` that returned `ok` leaves in the flash (R48). -/
def State.erased (s : State) (addr : Word) (ok : Bool) : State :=
  if ok then s.blankPage addr else s.scramblePage addr

/-- The first byte of a page: a multiple of the page size (R44, R48). -/
def State.isPage (s : State) (addr : Word) : Bool :=
  decide (4 ≤ s.hw.pageSize.toNat) && s.hw.pageSize.toNat % 4 == 0 && addr.toNat % s.hw.pageSize.toNat == 0

/-- `FlashErase(addr) -> ok` (R48); the line goes on at `onOk` or `onFail`. -/
def flashErase (addr : Word) (onOk onFail : State → State) (s : State) : Result :=
  if s.isPage addr then
    match s.env.replyAt 0 with
    | .hangs => .next s.useReply.hang
    | .returns ok =>
      .next ((if ok then onOk else onFail) ((s.useReply.erased addr ok).emit (.flashErase addr ok)))
  else .fault .notAPage

/-- `FlashPageSize() -> pageSize` (R49). -/
def State.emitPageSize (s : State) : State := s.emit (.flashPageSize s.hw.pageSize)

/-- `LockAcquire()` (R50): it is granted, or the grant never comes. -/
def lockAcquire (next : Phase) (s : State) : Result :=
  match s.env.replyAt 0 with
  | .hangs => .next s.useReply.hang
  | .returns _ => .next (((s.useReply.setLock true).emit .lockAcquire).goto next)

/-- `LockRelease()` (R51). -/
def State.lockRelease (s : State) : State := (s.setLock false).emit .lockRelease

/-! The CrcEngine port (20_memory.md R55 to R59). -/

/-- `k` of the 32 bit steps of the CRC of 93_implementation_defined.md G1. -/
def crcBits : Nat → Word → Word
  | 0, acc => acc
  | k + 1, acc => crcBits k (if acc.msb then (acc <<< 1) ^^^ 0x04C11DB7 else acc <<< 1)

/-- `CRC_INIT` (R55). -/
def crcInit : CrcEngine → Word
  | .parameter => Config.crcInit
  | .g1 => 0xFFFFFFFF

/-- `crc_step(acc, w)` (R55). -/
def crcStep : CrcEngine → Word → Word → Word
  | .parameter, acc, w => Config.crcStep acc w
  | .g1, acc, w => crcBits 32 (acc ^^^ w)

/-- `Crc(w_0, ..., w_{n-1})` (R55). -/
def crc (e : CrcEngine) (ws : List Word) : Word := ws.foldl (crcStep e) (crcInit e)

/-- `CrcReset()` (R56). -/
def State.crcReset (s : State) : State := (s.setAcc (crcInit s.hw.crc)).emit .crcReset

/-- `CrcAcc(w)` (R57). -/
def State.crcAcc (s : State) (w : Word) : State := (s.setAcc (crcStep s.hw.crc s.acc w)).emit (.crcAcc w)

/-- `CrcValue() -> acc` (R58): the event; the value is `acc`. -/
def State.crcValue (s : State) : State := s.emit (.crcValue s.acc)

/-- `CrcBlock(addr, n) -> c` (R59); `k` is what the line does with `c`; `acc` is unspecified after it. -/
def crcBlock (addr : Word) (n : Nat) (s : State) (k : Word → State → State) : Result :=
  if aligned addr then
    let c := crc s.hw.crc (s.mem.readWords addr n)
    .next (k c ((s.emit (.crcBlock addr n c)).accUnspecified))
  else .fault .misalignedFlash

/-! The RandomSource port. -/

/-- `RngNext() -> w` (20_memory.md R60): the event; the value is the next draw. -/
def State.rngNext (s : State) : State := (s.emit (.rngNext (s.env.drawAt 0))).useDraws 1

end Sys2Proof.Machine
end

