-- ==== Sys2Proof/Machine/Configure.lean ====
section
/-! DEFINITION. The lines of CONFIGURE (40_geometry_configure.md R100). -/

namespace Sys2Proof.Machine

open Sys2Proof

/-- One line of CONFIGURE (R100, R101). -/
def configureLine : CLine → State → Result
  | .c1, s => if s.recBytes % 4 != 0 then raise .configError .none 0 s else .next (s.goto (.configure .c2))
  | .c2, s => .next ({ s.emitPageSize with pageSize := s.hw.pageSize }.goto (.configure .c3))
  | .c3, s => .next ({ s with slotBytes := slotBytesOf s.recBytes }.goto (.configure .c4))
  | .c4, s =>
    .next ({ s with entryCount := entryCountOf s.pageSize s.pageCount s.slotBytes }.goto (.configure .c5))
  | .c5, s => .next ({ s.forgetCursor with cfgd := true }.goto (.configure .c6))
  | .c6, s => complete s

end Sys2Proof.Machine
end

