-- ==== Sys2Proof/Machine/EraseReset.lean ====
section
/-! DEFINITION. The lines of ERASE and RESET (43_erase_reset.md R160 to R166). -/

namespace Sys2Proof.Machine

open Sys2Proof

/-- One line of ERASE (R160): the Cursor goes first (R161), the lock is held around every page
erase and released on every exit (R162). -/
def eraseLine : ELine → State → Result
  | .e1, s => .next (s.forgetCursor.goto (.erase .e2))
  | .e2, s => lockAcquire (.erase .e3start) s
  | .e3start, s => .next ((s.setWork { s.wk with i := 0 }).goto (.erase .e3test))
  | .e3test, s => .next (s.goto (if s.wk.i = s.pageCount then .erase .e4release else .erase .e3erase))
  | .e3erase, s =>
    flashErase (s.pageAddr s.wk.i) (fun t => (t.setWork { t.wk with i := t.wk.i + 1 }).goto (.erase .e3test))
      (fun t => t.goto (.erase .e3release)) s
  | .e3release, s => .next (s.lockRelease.goto (.erase .e3raise))
  | .e3raise, s => raise .ioError .pageErase (s.pageAddr s.wk.i) s
  | .e4release, s => .next (s.lockRelease.goto (.erase .e4complete))
  | .e4complete, s => complete s

/-- One line of RESET (R165): the Cursor is forgotten, nothing else, and no port is touched. -/
def resetLine : XLine → State → Result
  | .x1, s => .next (s.forgetCursor.goto (.reset .x2))
  | .x2, s => complete s

end Sys2Proof.Machine
end

