-- ==== Sys2Proof/Machine/Read.lean ====
section
/-! DEFINITION. The lines of READ (41_scan_read.md R120). -/

namespace Sys2Proof.Machine

open Sys2Proof

/-- `RREC[j] <- v` (10_state.md R25). -/
def State.setRrec (s : State) (j : Nat) (v : Word) : State := { s with rrec := s.rrec.set j v }

/-- One line of READ (R120): a known Cursor is trusted unchecked (R121). -/
def readLine : RLine → State → Result
  | .rd1, s => .next (s.goto (if s.curv then .read .rd2start else .scan .read .s1))
  | .rd1NotFound, s => raise .notFound .none 0 s
  | .rd2start, s => .next ((s.setWork { s.wk with i := 0 }).goto (.read .rd2copy))
  | .rd2copy, s =>
    if s.wk.i = s.payloadWords then .next (s.goto (.read .rd3))
    else if s.wk.i.toNat < s.rrec.length then
      memRead (s.curLoc + 4 + 4 * s.wk.i) s fun v t =>
        (t.setRrec t.wk.i.toNat v).setWork { t.wk with i := t.wk.i + 1 }
    else .fault .noSuchBufferWord
  | .rd3, s => complete s

end Sys2Proof.Machine
end

