-- ==== Sys2Proof/Machine/Scan.lean ====
section
/-! DEFINITION. The recovery scan controller: the routine `SCAN` (41_scan_read.md R113, R114, R118). -/

namespace Sys2Proof.Machine

open Sys2Proof

/-- Where the caller goes on when the scan found a current slot. -/
def Caller.found : Caller → Phase
  | .read => .read .rd2start
  | .write => .write .w2

/-- Where the caller goes on when it found none: READ raises `NotFound` (41_scan_read.md R120), WRITE
takes the first-write case (42_write.md R131). -/
def Caller.notFound : Caller → Phase
  | .read => .read .rd1NotFound
  | .write => .write .w2

/-- One line of `SCAN` (R113); S9 adopts the candidate in the same step (R114). -/
def scanLine (c : Caller) : ScanLine → State → Result
  | .s1, s => .next ((s.setWork { s.wk with bf := false, bver := 0, bloc := 0, i := 0 }).goto (.scan c .s2))
  | .s2, s => .next (s.goto (if s.wk.i = s.entryCount then .scan c .s9 else .scan c .s3))
  | .s3, s => .next ((s.setWork { s.wk with a := s.slotAddr s.wk.i }).goto (.scan c .s4))
  | .s4, s => memRead s.wk.a s fun v t => (t.setWork { t.wk with h := v }).goto (.scan c .s5)
  | .s5, s => .next (s.goto (if headerMagic s.wk.h != Config.magic then .scan c .s8 else .scan c .s6))
  | .s6, s => .next (s.goto (if headerVersion s.wk.h > s.wk.bver then .scan c .s7crc else .scan c .s8))
  | .s7crc, s =>
    crcBlock s.wk.a (s.slotWords - 1).toNat s fun v t => (t.setWork { t.wk with c := v }).goto (.scan c .s7trailer)
  | .s7trailer, s =>
    memRead (s.wk.a + 4 * (s.slotWords - 1)) s fun v t => (t.setWork { t.wk with t := v }).goto (.scan c .s7keep)
  | .s7keep, s =>
    .next ((if s.wk.c = s.wk.t then
      s.setWork { s.wk with bf := true, bloc := s.wk.a, bver := headerVersion s.wk.h } else s).goto (.scan c .s8))
  | .s8, s => .next ((s.setWork { s.wk with i := s.wk.i + 1 }).goto (.scan c .s2))
  | .s9, s =>
    .next (if s.wk.bf then (s.setCursor s.wk.bloc s.wk.bver).goto c.found else s.goto c.notFound)

end Sys2Proof.Machine
end

