-- ==== Sys2Proof/Machine/Write.lean ====
section
/-! DEFINITION. The lines of WRITE: the slot allocator and the flash write sequencer with CRC
streamer (42_write.md R130 to R140). -/

namespace Sys2Proof.Machine

open Sys2Proof

/-- The slot and version a WRITE produces (42_write.md R131, R133). -/
def State.allocate (s : State) : Work :=
  if s.curv then { s.wk with nloc := s.nextLoc s.curLoc, nver := nextVersion s.curVer }
  else { s.wk with nloc := s.firstLoc, nver := 1 }

/-- Program the word `v` at `a`; a failure ends the command at WF (42_write.md R137). -/
def programNext (v : Word) (onOk : WLine) (s : State) : Result :=
  memWrite s.wk.a v (.write onOk) (.write .wfRelease) s

/-- Feed the word just programmed and move `a` and the loop index on (42_write.md R135, R136). -/
def State.feed (s : State) (v i : Word) (next : WLine) : State :=
  ((s.crcAcc v).setWork { s.wk with a := s.wk.a + 4, i := i }).goto (.write next)

/-- One line of WRITE (42_write.md R130). -/
def writeLine : WLine → State → Result
  | .w1, s => .next (s.goto (if s.curv then .write .w2 else .scan .write .s1))
  | .w2, s => .next ((s.setWork s.allocate).goto (.write .w3))
  | .w3, s => .next (s.goto (if s.pageStart s.wk.nloc then .write .w3erase else .write .w4))
  | .w3erase, s =>
    flashErase s.wk.nloc (fun t => t.goto (.write .w4)) (fun t => t.accUnspecified.goto (.write .w3raise)) s
  | .w3raise, s => raise .ioError .pageErase s.wk.nloc s
  | .w4, s => lockAcquire (.write .w5reset) s
  | .w5reset, s =>
    .next ((s.crcReset.setWork { s.wk with a := s.wk.nloc, h := header s.wk.nver }).goto (.write .w5program))
  | .w5program, s => programNext s.wk.h .w5feed s
  | .w5feed, s => .next (s.feed s.wk.h s.wk.i .w6start)
  | .w6start, s => .next ((s.setWork { s.wk with i := 0 }).goto (.write .w6test))
  | .w6test, s => .next (s.goto (if s.wk.i = s.payloadWords then .write .w7start else .write .w6program))
  | .w6program, s =>
    if s.wk.i.toNat < s.wrec.length then programNext (s.wrec.getD s.wk.i.toNat 0) .w6feed s
    else .fault .noSuchBufferWord
  | .w6feed, s => .next (s.feed (s.wrec.getD s.wk.i.toNat 0) (s.wk.i + 1) .w6test)
  | .w7start, s => .next ((s.setWork { s.wk with i := 0 }).goto (.write .w7test))
  | .w7test, s => .next (s.goto (if s.wk.i = s.fillerCount then .write .w8value else .write .w7draw))
  | .w7draw, s => .next ((s.rngNext.setWork { s.wk with w := s.env.drawAt 0 }).goto (.write .w7program))
  | .w7program, s => programNext s.wk.w .w7feed s
  | .w7feed, s => .next (s.feed s.wk.w (s.wk.i + 1) .w7test)
  | .w8value, s => .next ((s.crcValue.setWork { s.wk with t := s.acc }).goto (.write .w8program))
  | .w8program, s => programNext s.wk.t .w9 s
  | .w9, s => .next ((s.setCursor s.wk.nloc s.wk.nver).goto (.write .w10release))
  | .w10release, s => .next (s.lockRelease.goto (.write .w10complete))
  | .w10complete, s => complete s
  | .wfRelease, s => .next (s.accUnspecified.lockRelease.goto (.write .wfRaise))
  | .wfRaise, s => raise .ioError .wordProgram s.wk.a s

end Sys2Proof.Machine
end

