-- ==== Sys2Proof/Machine/Sequencer.lean ====
section
/-! DEFINITION. The sequencer (10_state.md R27, 92_eei_decisions.md D29): one line at a time, and the
run of a command's lines until the block is idle, a port call hangs, or a move lands. -/

namespace Sys2Proof.Machine

open Sys2Proof

/-- The line `PH` names is executed; at most one port event happens (D29). -/
def tick (s : State) : Result :=
  match s.ph with
  | .idle => .next s
  | .configure l => configureLine l s
  | .scan c l => scanLine c l s
  | .read l => readLine l s
  | .write l => writeLine l s
  | .erase l => eraseLine l s
  | .reset l => resetLine l s

/-- The next move lands before the next line. -/
def State.due (s : State) : Bool :=
  match s.env.moves with
  | [] => false
  | m :: _ => m.after == 0

/-- The sequencer has no line to execute now: the block is idle, its port call never returns
(60_exceptions.md R180), or a move lands first. -/
def State.waiting (s : State) : Bool := s.ph == .idle || s.hung || s.due

/-- One line has been executed: the next move is one line nearer. -/
def State.elapse (s : State) : State :=
  match s.env.moves with
  | [] => s
  | m :: ms => { s with env := { s.env with moves := { m with after := m.after - 1 } :: ms } }

/-- At most `n` lines, until the sequencer waits. -/
def run : Nat → State → Result
  | 0, s => .next s
  | n + 1, s =>
    if s.waiting then .next s
    else
      match tick s with
      | .next t => run n t.elapse
      | .fault f => .fault f
      | .refused r => .refused r

/-- More lines than any command has: its loops count 32-bit registers up (log entry 8). -/
def lineLimit : Nat := 2 ^ 40

/-- A command starts at the line `p` (30_encoding.md R75) and runs "to its end without further host
action", or until a move lands. -/
def start (p : Phase) (s : State) : Result := run lineLimit (s.goto p)

end Sys2Proof.Machine
end

