-- ==== Sys2Proof/Machine/Commands.lean ====
section
/-! DEFINITION. The meanings of the five commands: what a write of the command's word to `CMD` does
(30_encoding.md R74 to R77). One that R77 does not allow sets `ILLCMD` and nothing else. -/

namespace Sys2Proof.Machine

open Sys2Proof

/-- CONFIGURE (40_geometry_configure.md R100): allowed with `CFGD = 0` and `BUSY = 0`; it completes
whether or not the premises `GeomOK` hold. -/
def execConfigure (s : State) : Result :=
  if s.busy || s.cfgd then .next s.illegal else start (.configure .c1) s

/-- READ (41_scan_read.md R120): allowed with `CFGD = 1` and `BUSY = 0`; no meaning outside `GeomOK`
(00_scope.md R7). -/
def execRead (s : State) : Result :=
  if s.busy || !s.cfgd then .next s.illegal
  else if s.geomOK then start (.read .rd1) s else .refused .outsideGeomOK

/-- WRITE (42_write.md R130): allowed with `CFGD = 1` and `BUSY = 0`; no meaning outside `GeomOK`
(00_scope.md R7). -/
def execWrite (s : State) : Result :=
  if s.busy || !s.cfgd then .next s.illegal
  else if s.geomOK then start (.write .w1) s else .refused .outsideGeomOK

/-- ERASE (43_erase_reset.md R160): allowed with `CFGD = 1` and `BUSY = 0`; no meaning outside
`GeomOK` (00_scope.md R7). -/
def execErase (s : State) : Result :=
  if s.busy || !s.cfgd then .next s.illegal
  else if s.geomOK then start (.erase .e1) s else .refused .outsideGeomOK

/-- RESET (43_erase_reset.md R165): allowed with `CFGD = 1` and `BUSY = 0`; it "always completes with
`OK`". -/
def execReset (s : State) : Result :=
  if s.busy || !s.cfgd then .next s.illegal else start (.reset .x1) s

end Sys2Proof.Machine
end

