-- ==== Sys2Proof/Machine/Flags.lean ====
section
/-! DEFINITION. The flag and result words the host reads: `STATUS` (10_state.md R13) and `RESULT`
(R14). The block has no arithmetic condition codes (R34). -/

namespace Sys2Proof.Machine

open Sys2Proof

/-- `STATUS`: bit 0 `BUSY`, 1 `CFGD`, 2 `CURV`, 3 `ILLCMD`, 4 `LOCKH`, 31:5 read 0 (10_state.md R13). -/
def State.statusWord (s : State) : Word :=
  (0 : BitVec 27) ++ BitVec.ofBool s.lockh ++ BitVec.ofBool s.illcmd ++ BitVec.ofBool s.curv
    ++ BitVec.ofBool s.cfgd ++ BitVec.ofBool s.busy

/-- The code of a result kind (60_exceptions.md R170). -/
def Kind.code : Kind → BitVec 2
  | .ok => 0
  | .configError => 1
  | .notFound => 2
  | .ioError => 3

/-- The code of the failed flash operation (10_state.md R14). -/
def FlashOp.code : FlashOp → BitVec 2
  | .none => 0
  | .pageErase => 1
  | .wordProgram => 2

/-- `LASTOP`: the opcode of the command the result belongs to, 0 when none has completed (10_state.md R14). -/
def lastOpCode : Option Instr → BitVec 3
  | none => 0
  | some i => i.opc

/-- `RESULT`: bits 1:0 `KIND`, 3:2 `FOP`, 6:4 `LASTOP`, 31:7 read 0 (10_state.md R14). -/
def State.resultWord (s : State) : Word :=
  (0 : BitVec 25) ++ lastOpCode s.lastOp ++ s.fop.code ++ s.kind.code

/-- `CURVER`: the version in bits 23:0, bits 31:24 read 0 (10_state.md R23). -/
def State.curVerWord (s : State) : Word := (0 : BitVec 8) ++ s.curVer

end Sys2Proof.Machine
end

