-- ==== Sys2Proof/Machine/Operands.lean ====
section
/-! DEFINITION. The host register space (10_state.md R11): which register an offset names, what a
read of it returns. Commands have no operand fields; the registers are all their operands
(30_encoding.md R76). -/

namespace Sys2Proof.Machine

open Sys2Proof

/-- The registers of the map of 10_state.md R11, and the offsets that name none. -/
inductive HostReg where
  | cmd | status | result | errAddr | firstLoc | pageCount | recBytes
  | pageSize | slotBytes | entryCount | curLoc | curVer
  | wrec (i : Nat)
  | rrec (i : Nat)
  | unmapped
  deriving DecidableEq, Repr

/-- The register at a byte offset (10_state.md R11), for buffers of `kmax` words. -/
def hostReg (kmax : Nat) (off : Word) : HostReg :=
  let o := off.toNat
  if o = 0x000 then .cmd
  else if o = 0x004 then .status
  else if o = 0x008 then .result
  else if o = 0x00C then .errAddr
  else if o = 0x010 then .firstLoc
  else if o = 0x014 then .pageCount
  else if o = 0x018 then .recBytes
  else if o = 0x01C then .pageSize
  else if o = 0x020 then .slotBytes
  else if o = 0x024 then .entryCount
  else if o = 0x028 then .curLoc
  else if o = 0x02C then .curVer
  else if 0x1000 ≤ o ∧ o < 0x1000 + 4 * kmax then .wrec ((o - 0x1000) / 4)
  else if 0x2000 ≤ o ∧ o < 0x2000 + 4 * kmax then .rrec ((o - 0x2000) / 4)
  else .unmapped

/-- What a host read of a register returns (10_state.md R11 to R25): `CMD` and unmapped offsets read
0, `RREC` is unspecified while a command runs (30_encoding.md R77). -/
def State.regValue (s : State) : HostReg → Word
  | .cmd => 0
  | .status => s.statusWord
  | .result => s.resultWord
  | .errAddr => s.errAddr
  | .firstLoc => s.firstLoc
  | .pageCount => s.pageCount
  | .recBytes => s.recBytes
  | .pageSize => s.pageSize
  | .slotBytes => s.slotBytes
  | .entryCount => s.entryCount
  | .curLoc => s.curLoc
  | .curVer => s.curVerWord
  | .wrec i => s.wrec.getD i 0
  | .rrec i => if s.busy then s.env.unspecAt 0 else s.rrec.getD i 0
  | .unmapped => 0

/-- Byte `b` of a record held as words: bits `8*(b mod 4)+7 : 8*(b mod 4)` of word `b/4`
(20_memory.md R43). -/
def recordByte (ws : List Word) (b : Nat) : Byte := byteOf (ws.getD (b / 4) 0) (b % 4)

end Sys2Proof.Machine
end

