-- ==== Sys2Proof/Machine/Moves.lean ====
section
/-! DEFINITION. The moves of the host and of the environment (70_reset_and_hazards.md R217, R218):
register accesses (10_state.md R11, 30_encoding.md R75 to R77), a change of the flash between
commands (20_memory.md R67), power loss (R190, R191). -/

namespace Sys2Proof.Machine

open Sys2Proof

/-- A host read (10_state.md R11): always allowed, it changes nothing (30_encoding.md R77); what it
returned is kept for the observer. -/
def hostRead (off : Word) (s : State) : Result :=
  if aligned off then
    let v := s.regValue (hostReg s.hw.kmax off)
    let t := { s with env := { s.env with reads := s.env.reads ++ [v] } }
    match hostReg s.hw.kmax off with
    | .rrec _ => .next (if s.busy then t.useUnspec 1 else t)
    | _ => .next t
  else .refused .misalignedHostAccess

/-- A write of a configuration register: ignored with `ILLCMD` while configured or busy
(10_state.md R16, 30_encoding.md R77 item 5). -/
def configWrite (s t : State) : Result := if s.cfgd || s.busy then .next s.illegal else .next t

/-- A write to `CMD`: a reserved word sets `ILLCMD` (30_encoding.md R77 item 1), any other gives the
command. -/
def commandWrite (w : Word) (s : State) : Result :=
  match decode w with
  | .ok i => exec i s
  | .error _ => .next s.illegal

/-- A host write (10_state.md R11): a read-only or unmapped offset ignores it. -/
def hostWrite (off v : Word) (s : State) : Result :=
  if aligned off then
    match hostReg s.hw.kmax off with
    | .cmd => commandWrite v s
    | .firstLoc => configWrite s { s with firstLoc := v }
    | .pageCount => configWrite s { s with pageCount := v }
    | .recBytes => configWrite s { s with recBytes := v }
    | .wrec i => if s.busy then .next s.illegal else .next { s with wrec := s.wrec.set i v }
    | .status | .result | .errAddr | .pageSize | .slotBytes | .entryCount | .curLoc | .curVer
    | .rrec _ | .unmapped => .next s
  else .refused .misalignedHostAccess

/-- The environment changes a word of the flash, only while `BUSY = 0` (20_memory.md R67). -/
def setFlash (addr v : Word) (s : State) : Result :=
  if s.busy then .refused .flashChangedWhileBusy
  else if aligned addr then .next (s.setMem (s.mem.writeWord addr v))
  else .refused .misalignedFlashChange

/-- What power loss leaves in the flash (70_reset_and_hazards.md R191): a draw in the word, or in
every word of the page, whose operation was in progress; nothing else changes. -/
def State.cutFlash (s : State) : State :=
  if s.hung then
    match s.ph with
    | .write .w5program | .write .w6program | .write .w7program | .write .w8program =>
      (s.setMem (s.mem.writeWord s.wk.a (s.env.drawAt 0))).useDraws 1
    | .write .w3erase => s.scramblePage s.wk.nloc
    | .erase .e3erase => s.scramblePage (s.pageAddr s.wk.i)
    | _ => s
  else s

/-- `n` unspecified values, the first at `k`. -/
def Env.unspecWords (e : Env) (k n : Nat) : List Word := (List.range n).map fun j => e.unspecAt (k + j)

/-- The working registers after power loss: unspecified (10_state.md R32). -/
def Env.unspecWork (e : Env) (k : Nat) : Work :=
  { i := e.unspecAt k, bf := (e.unspecAt (k + 1)).msb, bloc := e.unspecAt (k + 2),
    bver := (e.unspecAt (k + 3)).extractLsb' 0 24, nloc := e.unspecAt (k + 4),
    nver := (e.unspecAt (k + 5)).extractLsb' 0 24, a := e.unspecAt (k + 6), h := e.unspecAt (k + 7),
    t := e.unspecAt (k + 8), c := e.unspecAt (k + 9), w := e.unspecAt (k + 10) }

/-- Power loss, the block's only reset (70_reset_and_hazards.md R190): every register takes its reset
value, what R32 leaves unspecified takes free values, the flash keeps what `cutFlash` leaves. -/
def State.powerLoss (s : State) : State :=
  let c := s.cutFlash
  let k := s.hw.kmax
  { State.reset with
    wrec := s.env.unspecWords 0 k, rrec := s.env.unspecWords k k, wk := s.env.unspecWork (2 * k),
    acc := s.env.unspecAt (2 * k + 11), mem := c.mem, hw := s.hw,
    env := { c.env with unspecIx := c.env.unspecIx + (2 * k + 12) }, trace := s.trace }

/-- A move lands. -/
def land (m : Move) (s : State) : Result :=
  match m with
  | .hostRead off => hostRead off s
  | .hostWrite off v => hostWrite off v s
  | .setFlash addr v => setFlash addr v s
  | .powerLoss => .next s.powerLoss

/-- One step of the machine: a running command executes its lines; when the sequencer waits, the next
move lands; with none to come nothing happens (70_reset_and_hazards.md R192, 60_exceptions.md R180). -/
def stepMachine (s : State) : Result :=
  if s.waiting then
    match s.env.moves with
    | [] => .next s
    | m :: ms => land m.move { s with env := { s.env with moves := ms } }
  else run lineLimit s

/-- The host's write of a word to `CMD`, landing at once (30_encoding.md R75). -/
def cmdMove (w : Word) : Timed := { after := 0, move := .hostWrite 0 w }

end Sys2Proof.Machine
end

