-- ==== Sys2Proof/Machine/Step.lean ====
section
/-! DEFINITION. The step function, and where the next instruction is placed: the block fetches
nothing, it takes the host's next write to `CMD` (70_reset_and_hazards.md R192, 30_encoding.md R75). -/

namespace Sys2Proof.Machine

open Sys2Proof

/-- One step of the machine. -/
def step (s : State) : Host.Outcome State Fault Refusal := stepMachine s

/-- `s` with the host's write of the instruction word to `CMD` as the very next move. -/
def State.withFetchWord (s : State) (nbits w : Nat) : State :=
  { s with env := { s.env with moves := cmdMove (BitVec.ofNat 32 (w % 2 ^ nbits)) :: s.env.moves } }

end Sys2Proof.Machine
end

