-- ==== Sys2Proof/Safety.lean ====
section
/-! DEFINITION. The terms claims are made in: the invariant of a safe run, the current slot, the slot
a WRITE goes to and the image it stores, each said on a state without running the machine. -/

namespace Sys2Proof.Machine

open Sys2Proof

/-! The invariant. -/

/-- The lines executed between `LockAcquire()` and `LockRelease()` (10_state.md R29). -/
def Phase.holdsLock : Phase → Bool
  | .write .w5reset | .write .w5program | .write .w5feed
  | .write .w6start | .write .w6test | .write .w6program | .write .w6feed
  | .write .w7start | .write .w7test | .write .w7draw | .write .w7program | .write .w7feed
  | .write .w8value | .write .w8program | .write .w9 | .write .w10release | .write .wfRelease
  | .erase .e3start | .erase .e3test | .erase .e3erase | .erase .e3release | .erase .e4release => true
  | _ => false

/-- The lines whose port call may never return (60_exceptions.md R180). -/
def Phase.mayHang : Phase → Bool
  | .write .w3erase | .write .w4 | .write .w5program | .write .w6program | .write .w7program
  | .write .w8program | .erase .e2 | .erase .e3erase => true
  | _ => false

/-- `LOCKH` is 1 exactly on the lines that hold the lock, and agrees with the FlashDevice (R29, R50, R51). -/
def State.lockOk (s : State) : Bool := s.lockh == s.ph.holdsLock && s.ctrlHeld == s.lockh

/-- Both record buffers have `KMAX` words (10_state.md R24, R25). -/
def State.buffersOk (s : State) : Bool := s.wrec.length == s.hw.kmax && s.rrec.length == s.hw.kmax

/-- The derived registers hold what CONFIGURE latches for a record size it accepts (10_state.md R19 to
R21, 40_geometry_configure.md R100). -/
def State.latched (s : State) : Bool :=
  s.recBytes % 4 == 0 && s.pageSize == s.hw.pageSize && s.slotBytes == slotBytesOf s.recBytes
    && s.entryCount == entryCountOf s.pageSize s.pageCount s.slotBytes

/-- `loc` is the address of a slot of the Region (20_memory.md R42). -/
def State.isSlot (s : State) (loc : Word) : Bool :=
  decide ((loc - s.firstLoc).toNat < s.pageCount.toNat * s.pageSize.toNat)
    && (loc - s.firstLoc).toNat % s.slotBytes.toNat == 0

/-- The best candidate of a scan, if there is one, is a slot. -/
def State.candidateOk (s : State) : Bool := !s.wk.bf || s.isSlot s.wk.bloc

/-- What the working registers hold before each line of `SCAN`. -/
def State.scanOk (s : State) : ScanLine → Bool
  | .s1 => true
  | .s2 => s.candidateOk && decide (s.wk.i ≤ s.entryCount)
  | .s3 | .s8 => s.candidateOk && decide (s.wk.i < s.entryCount)
  | .s4 | .s5 | .s6 | .s7crc | .s7trailer | .s7keep =>
    s.candidateOk && decide (s.wk.i < s.entryCount) && s.wk.a == s.slotAddr s.wk.i
  | .s9 => s.candidateOk

/-- What holds before each line of READ. -/
def State.readOk (s : State) : RLine → Bool
  | .rd1 | .rd1NotFound => true
  | .rd2start | .rd3 => s.curv
  | .rd2copy => s.curv && decide (s.wk.i ≤ s.payloadWords)

/-- What holds before each line of WRITE. -/
def State.writeOk (s : State) : WLine → Bool
  | .w1 | .w2 | .w3raise | .w10release | .w10complete | .wfRelease | .wfRaise => true
  | .w3 | .w4 | .w5reset | .w9 => s.isSlot s.wk.nloc
  | .w3erase => s.isSlot s.wk.nloc && s.pageStart s.wk.nloc
  | .w5program | .w5feed => s.isSlot s.wk.nloc && s.wk.a == s.wk.nloc
  | .w6start => s.isSlot s.wk.nloc && s.wk.a == s.wk.nloc + 4
  | .w6test =>
    s.isSlot s.wk.nloc && s.wk.a == s.wk.nloc + 4 + 4 * s.wk.i && decide (s.wk.i ≤ s.payloadWords)
  | .w6program | .w6feed =>
    s.isSlot s.wk.nloc && s.wk.a == s.wk.nloc + 4 + 4 * s.wk.i && decide (s.wk.i < s.payloadWords)
  | .w7start => s.isSlot s.wk.nloc && s.wk.a == s.wk.nloc + 4 + 4 * s.payloadWords
  | .w7test =>
    s.isSlot s.wk.nloc && s.wk.a == s.wk.nloc + 4 + 4 * s.payloadWords + 4 * s.wk.i
      && decide (s.wk.i ≤ s.fillerCount)
  | .w7draw | .w7program | .w7feed =>
    s.isSlot s.wk.nloc && s.wk.a == s.wk.nloc + 4 + 4 * s.payloadWords + 4 * s.wk.i
      && decide (s.wk.i < s.fillerCount)
  | .w8value | .w8program => s.isSlot s.wk.nloc && s.wk.a == s.wk.nloc + 4 * (s.slotWords - 1)

/-- What holds before each line of ERASE. -/
def State.eraseOk (s : State) : ELine → Bool
  | .e1 | .e2 | .e3start | .e4release | .e4complete => true
  | .e3test => decide (s.wk.i ≤ s.pageCount)
  | .e3erase | .e3release | .e3raise => decide (s.wk.i < s.pageCount)

/-- What holds before each line of CONFIGURE: the registers latched so far. -/
def State.configureOk (s : State) : CLine → Bool
  | .c1 => !s.cfgd
  | .c2 => !s.cfgd && s.recBytes % 4 == 0
  | .c3 => !s.cfgd && s.recBytes % 4 == 0 && s.pageSize == s.hw.pageSize
  | .c4 =>
    !s.cfgd && s.recBytes % 4 == 0 && s.pageSize == s.hw.pageSize && s.slotBytes == slotBytesOf s.recBytes
  | .c5 => !s.cfgd && s.latched
  | .c6 => s.cfgd

/-- What holds before the line `PH` names. -/
def State.phaseOk (s : State) : Bool :=
  match s.ph with
  | .idle => true
  | .configure l => s.configureOk l
  | .scan _ l => s.cfgd && s.geomOK && s.scanOk l
  | .read l => s.cfgd && s.geomOK && s.readOk l
  | .write l => s.cfgd && s.geomOK && s.writeOk l
  | .erase l => s.cfgd && s.geomOK && s.eraseOk l
  | .reset _ => s.cfgd

/-- A call hangs only on a line that makes one. -/
def State.hungOk (s : State) : Bool := !s.hung || s.ph.mayHang

/-- A known Cursor names a slot of a configured, well-formed Region (10_state.md R22, R26). -/
def State.cursorOk (s : State) : Bool := !s.curv || (s.cfgd && s.geomOK && s.isSlot s.curLoc)

/-- The derived registers of a configured block. -/
def State.configOk (s : State) : Bool := !s.cfgd || s.latched

/-- The invariant of the machine. -/
def State.inv (s : State) : Bool :=
  s.mem.wf && s.lockOk && s.buffersOk && s.hungOk && s.configOk && s.cursorOk && s.phaseOk

/-! When a command runs to its end without another move landing. -/

/-- Idle, and no move is to come: a command given now runs alone. -/
def State.quiet (s : State) : Bool := s.ph == .idle && !s.hung && s.env.moves.isEmpty

/-- A state in which READ, WRITE and ERASE may be given and run alone: configured inside `GeomOK`,
quiet, and inside the invariant. -/
def State.ready (s : State) : Bool := s.inv && s.quiet && s.cfgd && s.geomOK

/-- The next `n` answers of the environment are `ok`. -/
def Env.allOk (e : Env) (n : Nat) : Bool := (List.range n).all fun k => e.replyAt k == .returns true

/-! Slots, and which of them is current. -/

/-- The address of slot `k` (40_geometry_configure.md R95). -/
def State.slotLoc (s : State) (k : Nat) : Word := s.slotAddr (BitVec.ofNat 32 k)

/-- The address of the trailer word of the slot at `loc` (30_encoding.md R71). -/
def State.trailerLoc (s : State) (loc : Word) : Word := loc + 4 * (s.slotWords - 1)

/-- The CRC over words `0 .. N-2` of the slot at `loc` as the flash holds them. -/
def State.slotCrc (s : State) (loc : Word) : Word :=
  crc s.hw.crc (s.mem.readWords loc (s.slotWords - 1).toNat)

/-- `Valid(i)` for the slot at `loc` (41_scan_read.md R111). -/
def State.validAt (s : State) (loc : Word) : Bool :=
  headerMagic (s.mem.readWord loc) == Config.magic && s.mem.readWord (s.trailerLoc loc) == s.slotCrc loc

/-- The version in the header of the slot at `loc`. -/
def State.versionAt (s : State) (loc : Word) : Ver := headerVersion (s.mem.readWord loc)

/-- Slot `k` is the current slot (41_scan_read.md R112): valid, of version at least 1, no valid slot
has a greater version, none before it the same one. -/
def State.IsCurrent (s : State) (k : Nat) : Prop :=
  k < s.entryCount.toNat ∧ s.validAt (s.slotLoc k) = true ∧ 1 ≤ s.versionAt (s.slotLoc k) ∧
    ∀ j, j < s.entryCount.toNat → s.validAt (s.slotLoc j) = true →
      s.versionAt (s.slotLoc j) < s.versionAt (s.slotLoc k) ∨
        (s.versionAt (s.slotLoc j) = s.versionAt (s.slotLoc k) ∧ k ≤ j)

/-- The scan of the first `n` slots (41_scan_read.md R113, R118) as a fold: the best candidate and the
port events. -/
def State.scanned (s : State) : Nat → Option (Word × Ver) × List Event
  | 0 => (none, [])
  | n + 1 =>
    let (best, evs) := s.scanned n
    let loc := s.slotLoc n
    let h := s.mem.readWord loc
    let head := evs ++ [.memRead loc h]
    if headerMagic h == Config.magic && decide (headerVersion h > (best.map Prod.snd).getD 0) then
      let t := s.mem.readWord (s.trailerLoc loc)
      (if s.slotCrc loc == t then some (loc, headerVersion h) else best,
        head ++ [.crcBlock loc (s.slotWords - 1).toNat (s.slotCrc loc), .memRead (s.trailerLoc loc) t])
    else (best, head)

/-- What the scan of the whole Region answers. -/
def State.scanAnswer (s : State) : Option (Word × Ver) := (s.scanned s.entryCount.toNat).1

/-- The port events of the scan a READ or WRITE given now makes: none when the Cursor is known. -/
def State.scanEvents (s : State) : List Event :=
  if s.curv then [] else (s.scanned s.entryCount.toNat).2

/-- The Cursor after W1 or RD1: the known one, or what the scan answers. -/
def State.cursorNow (s : State) : Option (Word × Ver) :=
  if s.curv then some (s.curLoc, s.curVer) else s.scanAnswer

/-! What a WRITE given now stores, and where. -/

/-- `NLOC` (42_write.md R131). -/
def State.target (s : State) : Word :=
  match s.cursorNow with
  | some (loc, _) => s.nextLoc loc
  | none => s.firstLoc

/-- `NVER` (42_write.md R131, R133). -/
def State.targetVersion (s : State) : Ver :=
  match s.cursorNow with
  | some (_, ver) => nextVersion ver
  | none => 1

/-- The answers a successful WRITE takes: its page erase if any, the lock, `N` programs. -/
def State.writeCalls (s : State) : Nat := (if s.pageStart s.target then 1 else 0) + 1 + s.slotWords.toNat

/-- Every word of the target slot is blank at W5: the page is erased at W3, or the words are blank
now (70_reset_and_hazards.md R206). -/
def State.targetBlank (s : State) : Bool :=
  s.pageStart s.target || (List.range s.slotWords.toNat).all fun j => s.blank (wordAddr s.target j)

/-- The record, `WREC[0 .. K-1]`. -/
def State.record (s : State) : List Word := s.wrec.take s.payloadWords.toNat

/-- The filler words: one draw each (30_encoding.md R73). -/
def State.filler (s : State) : List Word := (List.range s.fillerCount.toNat).map s.env.drawAt

/-- Slot words `0 .. N-2` of the image (30_encoding.md R71). -/
def State.slotBody (s : State) : List Word := header s.targetVersion :: (s.record ++ s.filler)

/-- The slot image (30_encoding.md R71, R72). -/
def State.slotImage (s : State) : List Word := s.slotBody ++ [crc s.hw.crc s.slotBody]

/-- The events of programming the words `ws` from word `j` of the slot at `loc` on, each drawn first
if `drawn`. -/
def programEvents (loc : Word) (drawn : Bool) (j : Nat) : List Word → List Event
  | [] => []
  | w :: ws =>
    (if drawn then [.rngNext w] else []) ++ [.memWrite (wordAddr loc j) w true, .crcAcc w]
      ++ programEvents loc drawn (j + 1) ws

/-- The port events of a successful WRITE after its scan (42_write.md R142). -/
def State.storeEvents (s : State) : List Event :=
  (if s.pageStart s.target then [.flashErase s.target true] else [])
    ++ [.lockAcquire, .crcReset]
    ++ programEvents s.target false 0 (header s.targetVersion :: s.record)
    ++ programEvents s.target true (1 + s.record.length) s.filler
    ++ [.crcValue (crc s.hw.crc s.slotBody),
        .memWrite (s.trailerLoc s.target) (crc s.hw.crc s.slotBody) true, .lockRelease]

/-! A command from its start to its end, whatever lands while it runs. -/

/-- The next step is a power loss (70_reset_and_hazards.md R190). -/
def State.losesPower (s : State) : Bool :=
  s.waiting && s.env.moves.head?.map Timed.move == some .powerLoss

/-- `t` is the machine `n` steps after the command `i` was given in `s`, the command having run until
the last of them and power not having been lost: its own lines and the moves that land among them
(30_encoding.md R75, 70_reset_and_hazards.md R216 to R218). -/
def State.Course (s : State) (i : Instr) : Nat → State → Prop
  | 0, t => exec i s = .next t
  | n + 1, t => ∃ u, s.Course i n u ∧ u.ph ≠ .idle ∧ u.losesPower = false ∧ step u = .next t

/-- Every byte of flash where `p` holds reads in `t` as in `s`, and still does when `t` loses power
(70_reset_and_hazards.md R191). -/
def State.keepsFlash (s t : State) (p : Nat → Prop) : Prop :=
  (∀ a, p a → t.mem.readByte a = s.mem.readByte a) ∧
    ∀ u, t.losesPower = true → step t = .next u → ∀ a, p a → u.mem.readByte a = s.mem.readByte a

/-- Byte `a` lies in one of the `n` words from `loc` on. -/
def inWords (loc : Word) (n a : Nat) : Prop := loc.toNat ≤ a ∧ a < loc.toNat + 4 * n

/-- Byte `a` lies in the Region (20_memory.md R42). -/
def State.inRegion (s : State) (a : Nat) : Prop :=
  s.firstLoc.toNat ≤ a ∧ a < s.firstLoc.toNat + s.pageCount.toNat * s.pageSize.toNat

/-- The registers the host configured and CONFIGURE latched, and `CFGD`. -/
def State.sameConfig (s t : State) : Prop :=
  t.cfgd = s.cfgd ∧ t.firstLoc = s.firstLoc ∧ t.pageCount = s.pageCount ∧ t.recBytes = s.recBytes ∧
    t.pageSize = s.pageSize ∧ t.slotBytes = s.slotBytes ∧ t.entryCount = s.entryCount

/-- The Cursor (10_state.md R26). -/
def State.sameCursor (s t : State) : Prop :=
  t.curv = s.curv ∧ t.curLoc = s.curLoc ∧ t.curVer = s.curVer

/-! Frames: what a command leaves as it was. -/

/-- Byte `a` lies outside the slot a WRITE goes to and, when that slot begins a page, outside the page. -/
def State.outsideTarget (s : State) (a : Nat) : Prop :=
  ¬ inWords s.target s.slotWords.toNat a ∧
    ¬ (s.pageStart s.target = true ∧ inWords s.target s.deviceWords a)

/-- What CONFIGURE and RESET leave as it was (40_geometry_configure.md R100, 43_erase_reset.md R165). -/
def State.configureFrame (s t : State) : Prop :=
  t.mem = s.mem ∧ t.wrec = s.wrec ∧ t.rrec = s.rrec ∧ t.acc = s.acc ∧ t.lockh = s.lockh ∧
    t.ctrlHeld = s.ctrlHeld ∧ t.hung = s.hung ∧ t.hw = s.hw ∧ t.firstLoc = s.firstLoc ∧
    t.pageCount = s.pageCount ∧ t.recBytes = s.recBytes ∧ t.curLoc = s.curLoc ∧ t.curVer = s.curVer

/-- What READ leaves as it was (41_scan_read.md R120). -/
def State.readFrame (s t : State) : Prop :=
  t.mem = s.mem ∧ s.sameConfig t ∧ t.wrec = s.wrec ∧ t.lockh = s.lockh ∧ t.ctrlHeld = s.ctrlHeld ∧
    t.hung = s.hung ∧ t.hw = s.hw ∧ t.rrec.length = s.rrec.length ∧
    t.rrec.drop s.payloadWords.toNat = s.rrec.drop s.payloadWords.toNat ∧ (s.curv = true → s.sameCursor t)

/-- What WRITE leaves as it was beside the flash (42_write.md R130). -/
def State.storeFrame (s t : State) : Prop :=
  s.sameConfig t ∧ t.wrec = s.wrec ∧ t.rrec = s.rrec ∧ t.hw = s.hw

/-- What ERASE leaves as it was beside the flash (43_erase_reset.md R160). -/
def State.eraseFrame (s t : State) : Prop :=
  s.sameConfig t ∧ t.wrec = s.wrec ∧ t.rrec = s.rrec ∧ t.hw = s.hw ∧ t.acc = s.acc ∧
    t.curLoc = s.curLoc ∧ t.curVer = s.curVer

/-! How a command ends. -/

/-- `RESULT` and `ERRADDR` as a command's end leaves them (60_exceptions.md R172), with the block idle. -/
def State.ended (t : State) (i : Instr) (kind : Kind) (fop : FlashOp) (addr : Word) : Prop :=
  t.ph = .idle ∧ t.kind = kind ∧ t.fop = fop ∧ t.lastOp = some i ∧ t.errAddr = addr

end Sys2Proof.Machine
end

