-- ==== Sys2Proof/Certificates/Slice0/Obligations.lean ====
section
/-! DEFINITION. The statements for the provers, each with the rule of spec/ it formalises. -/

open Sys2Proof Sys2Proof.Machine

/-! Encoding. -/

/-- 30_encoding.md R74: a command's word decodes to the command, and is well formed. -/
def Obligations.DecodeOfEncodeIsTheCommand : Prop :=
  ∀ i : Instr, decode (encode i) = .ok i ∧ i.wf = true ∧ (CmdWord.ofWord (encode i)).wf = true

/-- 30_encoding.md R74: the words of the table, and no other, decode; the reserved words are those the
rule lists. -/
def Obligations.DecodeRefusesExactlyReservedWords : Prop :=
  ∀ w : Word,
    ((∃ e, decode w = .error e) ↔ (w = 0 ∨ w = 6 ∨ w = 7 ∨ w.extractLsb' 3 29 ≠ 0)) ∧
      (∀ i, decode w = .ok i → w = encode i)

/-- 30_encoding.md R74: the five words of the table, written out. -/
def Obligations.TableWordsDecode : Prop :=
  decode 0x00000001 = .ok .configure ∧ decode 0x00000002 = .ok .read ∧ decode 0x00000003 = .ok .write ∧
    decode 0x00000004 = .ok .erase ∧ decode 0x00000005 = .ok .reset ∧
    decode 0x0000000B = .error .reservedBits ∧ decode 0x00000006 = .error (.reservedOpcode 6)

/-- 30_encoding.md R70: the header word of a version, and its decode. -/
def Obligations.HeaderFieldsDecode : Prop :=
  (∀ ver : Ver, header ver = 0xBE000000 ||| ver.zeroExtend 32 ∧
    headerMagic (header ver) = 0xBE ∧ headerVersion (header ver) = ver) ∧
  ∀ h : Word, (headerMagic h).toNat = h.toNat / 2 ^ 24 ∧ (headerVersion h).toNat = h.toNat % 2 ^ 24

/-! Steps. -/

/-- The step that takes the host's write of a command's word is the command's meaning, on the state
whose next move that write no longer is; `withFetchWord` places that move. 30_encoding.md R75 says that
the write starts the command; that the host's moves are a list of which the first lands while the block
waits is the model's choice, log entry 7, and that one step runs the command's lines until the block
waits is the model's too, log entry 8. -/
def Obligations.StepRunsTheDecodedCommand : Prop :=
  ∀ (s : State) (w : Word) (i : Instr), decode w = .ok i →
    (∀ n ms, s.env.moves = ⟨n, .hostWrite 0 w⟩ :: ms → s.waiting = true →
      step s = exec i { s with env := { s.env with moves := ms } }) ∧
    step (s.withFetchWord 32 w.toNat) = exec i s

/-- 70_reset_and_hazards.md R192, R216 to R218: what a step adds around the commands. While the sequencer
does not wait it executes the running command's lines; when it waits the next move of the host or of the
environment lands; an idle block with no move to come runs nothing by itself (the interleaving is the
model's choice, log entry 8). What lands: a host access, refused at an offset that is no multiple of 4
(10_state.md R11, 93_implementation_defined.md U16); a change of exactly one flash word, which
20_memory.md R67 allows while the block is idle and the model refuses while a command runs (log entry 19,
U19) and at an address that is no word's (log entry 18); a power loss. -/
def Obligations.StepRunsLinesOrLandsAMove : Prop :=
  ∀ s : State, (s.waiting = false → step s = run lineLimit s) ∧
    (∀ n m ms, s.env.moves = ⟨n, m⟩ :: ms → s.waiting = true →
      step s = land m { s with env := { s.env with moves := ms } }) ∧
    (s.env.moves = [] → s.ph = .idle → step s = .next s) ∧
    land .powerLoss s = .next s.powerLoss ∧
    (∀ off v, land (.hostRead off) s = hostRead off s ∧ land (.hostWrite off v) s = hostWrite off v s ∧
      (off.toNat % 4 ≠ 0 →
        hostRead off s = .refused .misalignedHostAccess ∧ hostWrite off v s = .refused .misalignedHostAccess)) ∧
    ∀ addr v,
      (s.ph ≠ .idle → land (.setFlash addr v) s = .refused .flashChangedWhileBusy) ∧
      (s.ph = .idle → addr.toNat % 4 ≠ 0 → land (.setFlash addr v) s = .refused .misalignedFlashChange) ∧
      (s.ph = .idle → addr.toNat % 4 = 0 → s.mem.wf = true →
        ∃ m : Memory, land (.setFlash addr v) s = .next { s with mem := m } ∧ m.readWord addr = v ∧
          ∀ a, ¬ inWords addr 1 a → m.readByte a = s.mem.readByte a)

/-- 60_exceptions.md R180: a `MemWrite`, `FlashErase` or `LockAcquire` that never returns leaves the block
at its line, busy, with the lock as it was; from there no step but one in which power is lost moves it,
and with no move to come nothing changes at all. That the call in progress is a mark `hung` of the state,
and that it leaves the flash and the event trace as they were, is the model's reading, log entry 11. -/
def Obligations.CallThatNeverReturnsStopsTheBlock : Prop :=
  (∀ s : State, s.inv = true → s.ph.mayHang = true → s.env.replyAt 0 = .hangs →
    tick s = .next { s with hung := true, env := { s.env with replyIx := s.env.replyIx + 1 } }) ∧
  (∀ s t : State, s.ph ≠ .idle → s.hung = true → step s = .next t →
    (∀ n ms, s.env.moves ≠ ⟨n, .powerLoss⟩ :: ms) →
    t.ph = s.ph ∧ t.hung = true ∧ t.lockh = s.lockh ∧ t.ctrlHeld = s.ctrlHeld ∧ t.mem = s.mem ∧
      t.trace = s.trace) ∧
  (∀ s : State, s.hung = true → s.env.moves = [] → step s = .next s)

/-! Reset. -/

/-- 10_state.md R11, R13, R14, R32: what the host reads of every register with a reset value, right
after reset, and the phase; the words that R32 leaves unspecified are not part of this statement. -/
def Obligations.ResetRegisterValues : Prop :=
  State.reset.ph = .idle ∧ State.reset.hung = false ∧ State.reset.ctrlHeld = false ∧
    ∀ r : HostReg, (∀ i, r ≠ .wrec i) → (∀ i, r ≠ .rrec i) → State.reset.regValue r = 0

/-- 70_reset_and_hazards.md R190: power loss, from any state, puts every register that has a reset
value at it, leaves the block idle and the flash controller not held, keeps the flash when no flash
operation is in progress, and keeps the hardware. That the observer's trace is kept, and that an
operation in progress is a call that has not returned, are the model's, log entries 20 and 11. -/
def Obligations.PowerLossResetsTheBlock : Prop :=
  ∀ s : State, s.powerLoss.ph = .idle ∧ s.powerLoss.lockh = false ∧ s.powerLoss.ctrlHeld = false ∧
    s.powerLoss.hung = false ∧ s.powerLoss.hw = s.hw ∧ s.powerLoss.trace = s.trace ∧
    (∀ r : HostReg, (∀ i, r ≠ .wrec i) → (∀ i, r ≠ .rrec i) → s.powerLoss.regValue r = 0) ∧
    (s.hung = false → s.powerLoss.mem = s.mem)

/-- 70_reset_and_hazards.md R191: power loss between two events leaves the flash as it was; an operation
cut by it leaves a draw in its word, or in every word of its page, and no other word changes. That an
operation in progress is a call that has not returned (`hung`) is the model's reading, log entry 11. -/
def Obligations.PowerLossCutsAFlashOperation : Prop :=
  ∀ s : State, s.inv = true →
    (s.hung = false → s.powerLoss.mem = s.mem) ∧
    (s.hung = true → s.ph ∈ [Phase.write .w5program, .write .w6program, .write .w7program, .write .w8program] →
      s.powerLoss.mem.readWord s.wk.a = s.env.drawAt 0 ∧
        ∀ a, ¬ inWords s.wk.a 1 a → s.powerLoss.mem.readByte a = s.mem.readByte a) ∧
    (∀ page, s.hung = true →
      (s.ph = .write .w3erase ∧ page = s.wk.nloc) ∨ (s.ph = .erase .e3erase ∧ page = s.pageAddr s.wk.i) →
      (∀ k, k < s.deviceWords → s.powerLoss.mem.readWord (wordAddr page k) = s.env.drawAt k) ∧
        ∀ a, ¬ inWords page s.deviceWords a → s.powerLoss.mem.readByte a = s.mem.readByte a) ∧
    (s.hung = true → s.ph = .write .w4 ∨ s.ph = .erase .e2 → s.powerLoss.mem = s.mem)

/-! The host's registers. -/

/-- 10_state.md R13, R14, 60_exceptions.md R170: the fields of `STATUS` and of `RESULT`, with the codes of
the kinds, of the failed flash operation and of the last command written out; reserved bits read 0, `FOP`
is never 3. -/
def Obligations.StatusAndResultFields : Prop :=
  ∀ s : State, s.statusWord.getLsbD 0 = (s.ph != .idle) ∧ s.statusWord.getLsbD 1 = s.cfgd ∧
    s.statusWord.getLsbD 2 = s.curv ∧ s.statusWord.getLsbD 3 = s.illcmd ∧
    s.statusWord.getLsbD 4 = s.lockh ∧ s.statusWord.extractLsb' 5 27 = 0 ∧
    s.resultWord.extractLsb' 0 2 =
      (match s.kind with | .ok => 0 | .configError => 1 | .notFound => 2 | .ioError => 3) ∧
    s.resultWord.extractLsb' 2 2 =
      (match s.fop with | .none => 0 | .pageErase => 1 | .wordProgram => 2) ∧
    s.resultWord.extractLsb' 4 3 =
      (match s.lastOp with
        | none => 0
        | some .configure => 1
        | some .read => 2
        | some .write => 3
        | some .erase => 4
        | some .reset => 5) ∧
    s.resultWord.extractLsb' 7 25 = 0 ∧
    s.resultWord.extractLsb' 2 2 ≠ 3

/-- 10_state.md R11 to R25, 30_encoding.md R77: an aligned host read of any offset is allowed in every
state and changes nothing of the machine; what it returned, offset by offset: `CMD` and an offset that
names no register 0, `WREC[i]` and (while the block is idle) `RREC[i]` the buffer's word, `RREC[i]` while a
command runs an unspecified value, every other register what it holds (the bits of the words `STATUS` and
`RESULT` are those of `StatusAndResultFields`). That what was read is kept in the state is log entry 17. -/
def Obligations.HostReadChangesNothing : Prop :=
  ∀ (s : State) (off : Word), off.toNat % 4 = 0 →
    ∃ (e : Env) (v : Word), hostRead off s = .next { s with env := e } ∧
      e.reads = s.env.reads ++ [v] ∧
      e.moves = s.env.moves ∧ e.replies = s.env.replies ∧ e.replyIx = s.env.replyIx ∧
      e.draws = s.env.draws ∧ e.drawIx = s.env.drawIx ∧
      (off = 0x000 → v = 0) ∧ (off = 0x004 → v = s.statusWord) ∧ (off = 0x008 → v = s.resultWord) ∧
      (off = 0x00C → v = s.errAddr) ∧ (off = 0x010 → v = s.firstLoc) ∧ (off = 0x014 → v = s.pageCount) ∧
      (off = 0x018 → v = s.recBytes) ∧ (off = 0x01C → v = s.pageSize) ∧ (off = 0x020 → v = s.slotBytes) ∧
      (off = 0x024 → v = s.entryCount) ∧ (off = 0x028 → v = s.curLoc) ∧
      (off = 0x02C → v = s.curVer.zeroExtend 32) ∧
      (s.hw.kmax ≤ 1024 → s.wrec.length = s.hw.kmax → s.rrec.length = s.hw.kmax →
        (∀ i, i < s.hw.kmax → off.toNat = 0x1000 + 4 * i → s.wrec[i]? = some v) ∧
        (∀ i, i < s.hw.kmax → off.toNat = 0x2000 + 4 * i → s.ph = .idle → s.rrec[i]? = some v) ∧
        (∀ i, i < s.hw.kmax → off.toNat = 0x2000 + 4 * i → s.ph ≠ .idle → v = s.env.unspecAt 0) ∧
        (0x030 ≤ off.toNat → (∀ i, i < s.hw.kmax → off.toNat ≠ 0x1000 + 4 * i ∧ off.toNat ≠ 0x2000 + 4 * i) →
          v = 0))

/-- 30_encoding.md R77: each illegal host action sets `ILLCMD` and changes nothing else; a read of any
register is allowed and sets nothing, one of `RREC` while a command runs returning an unspecified value. -/
def Obligations.IllegalHostActionsOnlySetIllcmd : Prop :=
  ∀ (s : State) (w v : Word),
    ((∃ e, decode w = .error e) → hostWrite 0 w s = .next { s with illcmd := true }) ∧
    (s.ph ≠ .idle → hostWrite 0 w s = .next { s with illcmd := true }) ∧
    (s.cfgd = false → w ∈ [(2 : Word), 3, 4, 5] → hostWrite 0 w s = .next { s with illcmd := true }) ∧
    (s.cfgd = true → hostWrite 0 1 s = .next { s with illcmd := true }) ∧
    (s.cfgd = true ∨ s.ph ≠ .idle →
      hostWrite 0x10 v s = .next { s with illcmd := true } ∧
      hostWrite 0x14 v s = .next { s with illcmd := true } ∧
      hostWrite 0x18 v s = .next { s with illcmd := true }) ∧
    (∀ i, s.ph ≠ .idle → s.hw.kmax ≤ 1024 → i < s.hw.kmax →
      hostWrite (BitVec.ofNat 32 (0x1000 + 4 * i)) v s = .next { s with illcmd := true }) ∧
    (∀ off : Word, off.toNat % 4 = 0 → ∃ e, hostRead off s = .next { s with env := e }) ∧
    (∀ i, s.ph ≠ .idle → s.regValue (.rrec i) = s.env.unspecAt 0)

/-- 10_state.md R11, R16, R17, R18, R24: a configuration register is written while the block is idle and
not configured, a word of `WREC` while it is idle; in every phase a write to an aligned offset that names
no writable register (a read-only register, a word of `RREC`, or no register) changes nothing. -/
def Obligations.LegalHostWritesSetTheRegister : Prop :=
  ∀ (s : State) (v : Word),
    (s.ph = .idle → s.cfgd = false →
      hostWrite 0x10 v s = .next { s with firstLoc := v } ∧
      hostWrite 0x14 v s = .next { s with pageCount := v } ∧
      hostWrite 0x18 v s = .next { s with recBytes := v }) ∧
    (∀ i, s.ph = .idle → s.hw.kmax ≤ 1024 → i < s.hw.kmax →
      hostWrite (BitVec.ofNat 32 (0x1000 + 4 * i)) v s = .next { s with wrec := s.wrec.set i v }) ∧
    (∀ off : Word, off.toNat % 4 = 0 → off ∉ [(0x0 : Word), 0x10, 0x14, 0x18] →
      (∀ i, i < s.hw.kmax → off.toNat ≠ 0x1000 + 4 * i) → hostWrite off v s = .next s)

/-! The slot geometry. -/

/-- 40_geometry_configure.md R91: the result of `NextPow2` for every 32-bit value. -/
def Obligations.NextPow2IsTheLeastPowerOfTwo : Prop :=
  ∀ v : Word,
    (1 ≤ v.toNat → v.toNat ≤ 0x80000000 →
      ∃ k, (nextPow2 v).toNat = 2 ^ k ∧ v.toNat ≤ 2 ^ k ∧ ∀ j, v.toNat ≤ 2 ^ j → k ≤ j) ∧
    (v = 0 → nextPow2 v = 0) ∧ (0x80000000 < v.toNat → nextPow2 v = 0)

/-- 40_geometry_configure.md R92: the slot size under premise P4. -/
def Obligations.SlotSizeBounds : Prop :=
  ∀ rec : Word, slotBytesOf rec = nextPow2 (rec + 8) ∧ (rec.toNat ≤ 0x7FFFFFF8 →
    8 ≤ (slotBytesOf rec).toNat ∧ (slotBytesOf rec).toNat ≤ 0x80000000 ∧
      (∃ k, (slotBytesOf rec).toNat = 2 ^ k) ∧
      rec.toNat + 8 ≤ (slotBytesOf rec).toNat ∧ (slotBytesOf rec).toNat < 2 * (rec.toNat + 8) ∧
      2 * ((slotBytesOf rec).toNat - rec.toNat - 8) < (slotBytesOf rec).toNat)

/-- 40_geometry_configure.md R93: the words of a slot, of its payload and of its filler. -/
def Obligations.SlotWordCounts : Prop :=
  ∀ s : State, s.geomOK = true → s.latched = true →
    s.slotWords.toNat = s.slotBytes.toNat / 4 ∧ s.payloadWords.toNat = s.recBytes.toNat / 4 ∧
      s.fillerCount.toNat + s.payloadWords.toNat + 2 = s.slotWords.toNat ∧
      2 ≤ s.slotWords.toNat ∧ 2 * s.fillerCount.toNat < s.slotWords.toNat

/-- 40_geometry_configure.md R94: under `GeomOK` the slots tile the Region exactly. -/
def Obligations.EntryCountTilesTheRegion : Prop :=
  ∀ s : State, s.geomOK = true → s.latched = true →
    s.entryCount = s.pageSize * s.pageCount / s.slotBytes ∧ 1 ≤ s.entryCount.toNat ∧
      s.entryCount.toNat = s.pageCount.toNat * (s.pageSize.toNat / s.slotBytes.toNat) ∧
      s.entryCount.toNat * s.slotBytes.toNat = s.pageCount.toNat * s.pageSize.toNat

/-- 40_geometry_configure.md R96: `NextLoc` is the rule's function, and takes slot `i` to slot `i + 1`, the
last slot to slot 0. -/
def Obligations.NextLocFollowsTheRing : Prop :=
  (∀ (s : State) (loc : Word), s.nextLoc loc =
    (let n := loc + s.slotBytes
     if n - s.firstLoc ≥ s.entryCount * s.slotBytes then s.firstLoc else n)) ∧
  ∀ (s : State) (i : Nat), s.geomOK = true → s.latched = true → i < s.entryCount.toNat →
    s.nextLoc (s.slotLoc i) = s.slotLoc ((i + 1) % s.entryCount.toNat)

/-- 40_geometry_configure.md R97: `PageStart` is the rule's test; slot `i` begins a page exactly when `i` is
a multiple of the slots in a page; inside `GeomOK` the test is that the address is a multiple of the page
size. -/
def Obligations.PageStartOfASlot : Prop :=
  (∀ (s : State) (loc : Word), s.pageStart loc = true ↔ (loc - s.firstLoc).toNat % s.pageSize.toNat = 0) ∧
  ∀ s : State, s.geomOK = true →
    (∀ loc, s.pageStart loc = true ↔ loc.toNat % s.pageSize.toNat = 0) ∧
    (s.latched = true → ∀ i, i < s.entryCount.toNat →
      (s.pageStart (s.slotLoc i) = true ↔ i % (s.pageSize.toNat / s.slotBytes.toNat) = 0))

/-! The ports. -/

/-- 20_memory.md R47: what a `MemWrite` leaves, in each of its cases, and that no other word changes. That a
call that never returns leaves the flash and the trace as they were is the model's reading, log entry 11. -/
def Obligations.ProgramChangesOnlyItsWord : Prop :=
  ∀ (s : State) (addr v : Word) (p q : Phase), s.mem.wf = true → addr.toNat % 4 = 0 →
    (s.env.replyAt 0 = .hangs → ∃ t, memWrite addr v p q s = .next t ∧ t.ph = s.ph ∧ t.hung = true ∧
      t.mem = s.mem ∧ t.trace = s.trace) ∧
    ∀ ok, s.env.replyAt 0 = .returns ok →
    ∃ t, memWrite addr v p q s = .next t ∧ t.ph = (if ok then p else q) ∧
      (ok = true ∧ s.mem.readWord addr = s.hw.erasedWord → t.mem.readWord addr = v) ∧
      (ok = false ∨ s.mem.readWord addr ≠ s.hw.erasedWord → t.mem.readWord addr = s.env.drawAt 0) ∧
      (∀ a, ¬ inWords addr 1 a → t.mem.readByte a = s.mem.readByte a) ∧
      t.trace = s.trace ++ [.memWrite addr v ok]

/-- 20_memory.md R48: what a `FlashErase` leaves, in both cases, and that no word outside the page changes.
That a call that never returns leaves the flash and the trace as they were is the model's reading, log
entry 11. -/
def Obligations.EraseChangesOnlyItsPage : Prop :=
  ∀ (s : State) (addr : Word) (p q : Phase), s.mem.wf = true → s.isPage addr = true →
    addr.toNat + s.hw.pageSize.toNat ≤ 2 ^ 32 →
    (s.env.replyAt 0 = .hangs →
      ∃ t, flashErase addr (fun u => u.goto p) (fun u => u.goto q) s = .next t ∧ t.ph = s.ph ∧
        t.hung = true ∧ t.mem = s.mem ∧ t.trace = s.trace) ∧
    ∀ ok, s.env.replyAt 0 = .returns ok →
    ∃ t, flashErase addr (fun u => u.goto p) (fun u => u.goto q) s = .next t ∧
      t.ph = (if ok then p else q) ∧
      (∀ k, k < s.deviceWords → t.mem.readWord (wordAddr addr k) =
        if ok then s.hw.erasedWord else s.env.drawAt k) ∧
      (∀ a, ¬ inWords addr s.deviceWords a → t.mem.readByte a = s.mem.readByte a) ∧
      t.trace = s.trace ++ [.flashErase addr ok]

/-- 20_memory.md R56, R57, R58, R59: `CrcReset()` and `CrcAcc(w)` set the accumulator and `CrcValue()`
changes none of it; the streamed CRC of some words is their CRC; `CrcBlock` returns the same of the words in
flash, changes nothing in the flash, and leaves an unspecified accumulator. -/
def Obligations.StreamedCrcIsTheBlockCrc : Prop :=
  ∀ (s : State) (ws : List Word) (w addr : Word) (n : Nat), addr.toNat % 4 = 0 →
    s.crcReset.acc = crcInit s.hw.crc ∧ (s.crcAcc w).acc = crcStep s.hw.crc s.acc w ∧
      s.crcValue = { s with trace := s.trace ++ [.crcValue s.acc] } ∧
      (ws.foldl State.crcAcc s.crcReset).acc = crc s.hw.crc ws ∧
      ∃ t : State, crcBlock addr n s (fun c u => u.setWork { u.wk with c := c }) = .next t ∧
        t.wk.c = crc s.hw.crc ((List.range n).map fun k => s.mem.readWord (wordAddr addr k)) ∧
        t.mem = s.mem ∧ t.acc = s.env.unspecAt 0

/-! The commands. -/

/-- 40_geometry_configure.md R100: CONFIGURE, the word 1. A record size that is no multiple of 4 ends
it with `ConfigError`, nothing but `RESULT` and `ERRADDR` changed and no port event made; any other completes
with `OK` whether or not `GeomOK` holds, after one port event, with the page size, the slot size and the
entry count latched and the Cursor unknown (of an entry count divided by a slot size of 0, which the spec
gives no value, nothing is said; nor of the working registers, unspecified by 10_state.md R28). Not
allowed, it starts nothing (30_encoding.md R77). -/
def Obligations.ConfigureLatchesTheGeometry : Prop :=
  encode .configure = 0x00000001 ∧
  ∀ s : State,
    (s.quiet = true → s.cfgd = false → s.recBytes.toNat % 4 ≠ 0 → ∃ wk : Work,
      exec .configure s = .next { s with
        wk := wk, kind := .configError, fop := .none, errAddr := 0, lastOp := some .configure }) ∧
    (s.quiet = true → s.cfgd = false → s.recBytes.toNat % 4 = 0 → ∃ (wk : Work) (entries : Word),
      exec .configure s = .next { s with
        wk := wk, pageSize := s.hw.pageSize, slotBytes := nextPow2 (s.recBytes + 8), entryCount := entries,
        cfgd := true, curv := false, kind := .ok, fop := .none, errAddr := 0, lastOp := some .configure,
        trace := s.trace ++ [.flashPageSize s.hw.pageSize] } ∧
      (nextPow2 (s.recBytes + 8) ≠ 0 → entries = s.hw.pageSize * s.pageCount / nextPow2 (s.recBytes + 8))) ∧
    (s.ph ≠ .idle ∨ s.cfgd = true → exec .configure s = .next { s with illcmd := true })

/-- 43_erase_reset.md R165: RESET, the word 5, forgets the Cursor and completes with `OK` when it is
allowed; nothing else changes (of the working registers, unspecified by 10_state.md R28, nothing is
said) and no port event happens, whatever the configuration. Not allowed, it starts nothing
(30_encoding.md R77). -/
def Obligations.ResetForgetsTheCursor : Prop :=
  encode .reset = 0x00000005 ∧
  ∀ s : State,
    (s.quiet = true → s.cfgd = true → ∃ wk : Work, exec .reset s = .next { s with
      wk := wk, curv := false, kind := .ok, fop := .none, errAddr := 0, lastOp := some .reset }) ∧
    (s.ph ≠ .idle ∨ s.cfgd = false → exec .reset s = .next { s with illcmd := true })

/-- 41_scan_read.md R120, R121: READ with a known Cursor copies the payload words of the slot it names,
unchecked, by `K` reads, and completes with `OK`. -/
def Obligations.ReadFromAKnownCursor : Prop :=
  ∀ s : State, s.ready = true → s.curv = true →
    ∃ t, exec .read s = .next t ∧ t.ended .read .ok .none 0 ∧ s.sameCursor t ∧ t.mem = s.mem ∧
      t.rrec = s.mem.readWords (s.curLoc + 4) s.payloadWords.toNat ++ s.rrec.drop s.payloadWords.toNat ∧
      t.trace = s.trace ++ (List.range s.payloadWords.toNat).map fun j =>
        .memRead (wordAddr (s.curLoc + 4) j) (s.mem.readWord (wordAddr (s.curLoc + 4) j))

/-- 41_scan_read.md R113, R114, R120: READ with an unknown Cursor scans the Region slot by slot; it
adopts the scan's answer and copies its payload. -/
def Obligations.ReadAdoptsTheScansAnswer : Prop :=
  ∀ (s : State) (loc : Word) (ver : Ver), s.ready = true → s.curv = false →
    s.scanAnswer = some (loc, ver) →
    ∃ t, exec .read s = .next t ∧ t.ended .read .ok .none 0 ∧
      t.curv = true ∧ t.curLoc = loc ∧ t.curVer = ver ∧ t.mem = s.mem ∧
      t.rrec = s.mem.readWords (loc + 4) s.payloadWords.toNat ++ s.rrec.drop s.payloadWords.toNat ∧
      t.trace = s.trace ++ s.scanEvents ++ (List.range s.payloadWords.toNat).map fun j =>
        .memRead (wordAddr (loc + 4) j) (s.mem.readWord (wordAddr (loc + 4) j))

/-- 41_scan_read.md R120: READ whose scan finds nothing ends with `NotFound`; the Cursor stays unknown, and
both buffers, the configuration, `ILLCMD` and the flash are unchanged. -/
def Obligations.ReadOfAnEmptyRegionIsNotFound : Prop :=
  ∀ s : State, s.ready = true → s.curv = false → s.scanAnswer = none →
    ∃ t, exec .read s = .next t ∧ t.ended .read .notFound .none 0 ∧ s.sameCursor t ∧
      t.rrec = s.rrec ∧ t.wrec = s.wrec ∧ s.sameConfig t ∧ t.illcmd = s.illcmd ∧ t.mem = s.mem ∧
      t.trace = s.trace ++ s.scanEvents

/-- 41_scan_read.md R115: the scan answers exactly when there is a current slot, and then with it. -/
def Obligations.ScanFindsExactlyTheCurrentSlot : Prop :=
  ∀ s : State, s.geomOK = true → s.latched = true →
    (∀ loc ver, s.scanAnswer = some (loc, ver) ↔
      ∃ k, s.IsCurrent k ∧ loc = s.slotLoc k ∧ ver = s.versionAt (s.slotLoc k)) ∧
    (s.scanAnswer = none ↔ ¬ ∃ k, s.IsCurrent k)

/-- 42_write.md R130, R131, R133, R139: WRITE whose flash operations all succeed completes with `OK` on
any flash content, moves the Cursor to the allocated slot and version, and releases the lock. -/
def Obligations.WriteMovesTheCursor : Prop :=
  ∀ s : State, s.ready = true → s.env.allOk s.writeCalls = true →
    ∃ t, exec .write s = .next t ∧ t.ended .write .ok .none 0 ∧ t.curv = true ∧
      t.curLoc = s.target ∧ t.curVer = s.targetVersion ∧ t.lockh = false ∧ t.ctrlHeld = false ∧
      t.wrec = s.wrec ∧ t.rrec = s.rrec

/-- 42_write.md R130, R141, R142, 30_encoding.md R71, R72: onto blank words, a successful WRITE stores the
slot image (header, payload, filler, CRC of them) by exactly the events of the rule, and the slot is then
valid, with the version allocated. -/
def Obligations.WriteStoresTheSlotImage : Prop :=
  ∀ s : State, s.ready = true → s.env.allOk s.writeCalls = true → s.targetBlank = true →
    ∃ t, exec .write s = .next t ∧ t.ended .write .ok .none 0 ∧
      t.mem.readWords s.target s.slotWords.toNat = s.slotImage ∧
      t.validAt s.target = true ∧ t.versionAt s.target = s.targetVersion ∧
      t.trace = s.trace ++ s.scanEvents ++ s.storeEvents

/-- 42_write.md R134: WRITE whose page erase fails ends with `IoError`, `FOP` 1 and the page's address,
before the lock is taken and before any program. -/
def Obligations.WriteReportsAFailedPageErase : Prop :=
  ∀ s : State, s.ready = true → s.pageStart s.target = true → s.env.replyAt 0 = .returns false →
    ∃ t, exec .write s = .next t ∧ t.ended .write .ioError .pageErase s.target ∧ t.lockh = false ∧
      t.trace = s.trace ++ s.scanEvents ++ [.flashErase s.target false]

/-- 42_write.md R137, R140: WRITE whose program of slot word `j` fails ends with `IoError`, `FOP` 2 and
that word's address; the lock is released and the Cursor is what W1 left. -/
def Obligations.WriteReportsAFailedProgram : Prop :=
  ∀ (s : State) (j : Nat), s.ready = true → j < s.slotWords.toNat →
    s.env.allOk ((if s.pageStart s.target then 1 else 0) + 1 + j) = true →
    s.env.replyAt ((if s.pageStart s.target then 1 else 0) + 1 + j) = .returns false →
    ∃ t, exec .write s = .next t ∧ t.ended .write .ioError .wordProgram (wordAddr s.target j) ∧
      t.lockh = false ∧ t.ctrlHeld = false ∧ t.curv = s.cursorNow.isSome ∧
      (∀ loc ver, s.cursorNow = some (loc, ver) → t.curLoc = loc ∧ t.curVer = ver) ∧
      (∀ a, ¬ inWords s.target s.slotWords.toNat a → s.pageStart s.target = false →
        t.mem.readByte a = s.mem.readByte a)

/-- 43_erase_reset.md R160, R161, R162: ERASE whose page erases all succeed blanks every word of the
Region, page by page under the lock, forgets the Cursor and completes with `OK`; no byte outside the
Region changes. -/
def Obligations.EraseBlanksTheRegion : Prop :=
  ∀ s : State, s.ready = true → s.env.allOk (s.pageCount.toNat + 1) = true →
    ∃ t, exec .erase s = .next t ∧ t.ended .erase .ok .none 0 ∧ t.curv = false ∧
      t.lockh = false ∧ t.ctrlHeld = false ∧
      (∀ a : Word, a.toNat % 4 = 0 → s.inRegion a.toNat → t.mem.readWord a = s.hw.erasedWord) ∧
      (∀ a, ¬ s.inRegion a → t.mem.readByte a = s.mem.readByte a) ∧
      t.trace = s.trace ++ [.lockAcquire] ++ (List.range s.pageCount.toNat).map (fun p =>
        .flashErase (s.pageAddr (BitVec.ofNat 32 p)) true) ++ [.lockRelease]

/-- 43_erase_reset.md R160, R161, R162: ERASE stops at the first page whose erase fails, with `IoError`,
`FOP` 1 and that page's address; earlier pages stay blank, later pages are untouched, the Cursor is
forgotten and the lock released. -/
def Obligations.EraseStopsAtTheFirstFailingPage : Prop :=
  ∀ (s : State) (p : Nat), s.ready = true → p < s.pageCount.toNat →
    s.env.allOk (p + 1) = true → s.env.replyAt (p + 1) = .returns false →
    ∃ t, exec .erase s = .next t ∧
      t.ended .erase .ioError .pageErase (s.pageAddr (BitVec.ofNat 32 p)) ∧ t.curv = false ∧
      t.lockh = false ∧ t.ctrlHeld = false ∧
      (∀ a : Word, a.toNat % 4 = 0 → s.firstLoc.toNat ≤ a.toNat →
        a.toNat < s.firstLoc.toNat + p * s.pageSize.toNat → t.mem.readWord a = s.hw.erasedWord) ∧
      (∀ a, ¬ (s.firstLoc.toNat ≤ a ∧ a < s.firstLoc.toNat + (p + 1) * s.pageSize.toNat) →
        t.mem.readByte a = s.mem.readByte a)

/-- 00_scope.md R7: the premises `GeomOK`, written out; READ, WRITE and ERASE get no meaning outside them
and are refused by name (that it is these three commands is the model's reading, log entry 6). -/
def Obligations.CommandsOutsideGeomOKAreRefused : Prop :=
  ∀ s : State,
    (s.geomOK = true ↔
      s.firstLoc.toNat % s.pageSize.toNat = 0 ∧ 1 ≤ s.pageCount.toNat ∧
      (8 ≤ s.pageSize.toNat ∧ ∃ k, s.pageSize.toNat = 2 ^ k) ∧ s.recBytes.toNat ≤ 0x7FFFFFF8 ∧
      (slotBytesOf s.recBytes).toNat ≤ s.pageSize.toNat ∧
      (s.pageCount.toNat * s.pageSize.toNat < 2 ^ 32 ∧
        s.firstLoc.toNat + s.pageCount.toNat * s.pageSize.toNat ≤ 2 ^ 32) ∧
      s.recBytes.toNat ≤ 4 * s.hw.kmax) ∧
    (s.ph = .idle → s.cfgd = true → s.geomOK = false →
      ∀ i ∈ [Instr.read, .write, .erase], exec i s = .refused .outsideGeomOK)

/-! Frames and whole-machine rules. -/

/-- 40_geometry_configure.md R100, 43_erase_reset.md R165: what CONFIGURE and RESET leave unchanged in
every state they are given in; given to an idle block, at every step of their course, whatever lands in
it, and in the flash also when power is then lost. -/
def Obligations.ConfigureAndResetFrame : Prop :=
  ∀ (s : State) (i : Instr), i = .configure ∨ i = .reset →
    (∀ t, exec i s = .next t → s.configureFrame t ∧ (i = .reset → s.sameConfig t)) ∧
    (s.ph = .idle → ∀ n t, s.Course i n t →
      s.configureFrame t ∧ (i = .reset → s.sameConfig t) ∧ s.keepsFlash t fun _ => True)

/-- 41_scan_read.md R120: what READ leaves unchanged in every state it is given in: the flash, the
configuration, `WREC`, the lock, `ILLCMD` when it is legal, and `RREC` from word `K` on; given to an idle
block, also at every step of its course, whatever lands in it (but for `ILLCMD`, which a host's write may
set), and in the flash also when power is then lost. -/
def Obligations.ReadFrame : Prop :=
  ∀ s : State,
    (∀ t, exec .read s = .next t → s.readFrame t ∧ (s.ph = .idle ∧ s.cfgd = true → t.illcmd = s.illcmd)) ∧
    (s.ph = .idle → ∀ n t, s.Course .read n t → s.readFrame t ∧ s.keepsFlash t fun _ => True)

/-- 42_write.md R130, 20_memory.md R47, R48, R191: what WRITE leaves unchanged in every state that meets
the machine's invariant: the configuration, both buffers, and every byte of flash outside the target slot
and, when that slot begins a page, outside that page; given to an idle block, also at every step of its
course, whatever lands in it, and in the flash also when power is then lost. -/
def Obligations.WriteFrame : Prop :=
  ∀ s : State, s.inv = true →
    (∀ t, exec .write s = .next t → s.storeFrame t ∧ (s.ph = .idle ∧ s.cfgd = true → t.illcmd = s.illcmd) ∧
      ∀ a, s.outsideTarget a → t.mem.readByte a = s.mem.readByte a) ∧
    (s.ph = .idle → ∀ n t, s.Course .write n t → s.storeFrame t ∧ s.keepsFlash t s.outsideTarget)

/-- 43_erase_reset.md R160, 70_reset_and_hazards.md R191: what ERASE leaves unchanged in every state that
meets the machine's invariant: the configuration, both buffers, `CURLOC`, `CURVER`, the CRC accumulator,
and every byte of flash outside the Region; given to an idle block, also at every step of its course,
whatever lands in it, and in the flash also when power is then lost. -/
def Obligations.EraseFrame : Prop :=
  ∀ s : State, s.inv = true →
    (∀ t, exec .erase s = .next t → s.eraseFrame t ∧ (s.ph = .idle ∧ s.cfgd = true → t.illcmd = s.illcmd) ∧
      ∀ a, ¬ s.inRegion a → t.mem.readByte a = s.mem.readByte a) ∧
    (s.ph = .idle → ∀ n t, s.Course .erase n t → s.eraseFrame t ∧ s.keepsFlash t fun a => ¬ s.inRegion a)

/-- 60_exceptions.md R171: with which kinds each command can end, whatever lands in its course. -/
def Obligations.CommandsEndWithTheirKinds : Prop :=
  ∀ (s t : State) (i : Instr) (n : Nat), s.ph = .idle → s.cfgd = (i != .configure) → s.hung = false →
    s.Course i n t → t.ph = .idle →
    t.lastOp = some i ∧
      t.kind ∈ (match i with
        | .configure => [Kind.ok, .configError]
        | .read => [.ok, .notFound]
        | .write => [.ok, .ioError]
        | .erase => [.ok, .ioError]
        | .reset => [.ok])

/-- 10_state.md R14: while a command runs, `RESULT` and `ERRADDR` hold the previous command's result:
only the line that ends the command changes them. -/
def Obligations.RunningCommandKeepsTheResult : Prop :=
  ∀ s t : State, tick s = .next t → t.ph ≠ .idle →
    t.kind = s.kind ∧ t.fop = s.fop ∧ t.lastOp = s.lastOp ∧ t.errAddr = s.errAddr

/-- 60_exceptions.md R170, R172: the line that ends a command writes `RESULT`, `ERRADDR` and the phase and
nothing else; `FOP` and `ERRADDR` are 0 but for `IoError`. -/
def Obligations.CompletionWritesOnlyTheResult : Prop :=
  ∀ s t : State, s.ph ≠ .idle → tick s = .next t → t.ph = .idle →
    t = { s with kind := t.kind, fop := t.fop, lastOp := s.ph.command, errAddr := t.errAddr, ph := .idle } ∧
      (t.kind ≠ .ioError → t.fop = .none ∧ t.errAddr = 0) ∧ (t.kind = .ioError → t.fop ≠ .none)

/-- 60_exceptions.md R175: a WRITE that ends with `IoError`, whatever lands in its course, never moves a
known Cursor. -/
def Obligations.FailedWriteNeverMovesTheCursor : Prop :=
  ∀ (s t : State) (n : Nat), s.ph = .idle → s.cfgd = true → s.hung = false → s.curv = true →
    s.Course .write n t → t.ph = .idle → t.kind = .ioError → s.sameCursor t

/-- 42_write.md R141: with two pages or more, nothing a WRITE does, at any step of its course, whatever
lands in it, changes a byte of the slot the Cursor named when it was given, and no power loss does. -/
def Obligations.WriteNeverTouchesTheCurrentSlot : Prop :=
  ∀ (s t : State) (n : Nat), s.inv = true → s.ph = .idle → s.cfgd = true → s.curv = true →
    2 ≤ s.pageCount.toNat → s.Course .write n t → s.keepsFlash t (inWords s.curLoc s.slotWords.toNat)

/-- 00_scope.md R6, 20_memory.md R49: no step changes the hardware's parameters. -/
def Obligations.StepKeepsTheHardware : Prop := ∀ s t : State, step s = .next t → t.hw = s.hw

/-- 10_state.md R16 to R21, 30_encoding.md R77: from a state inside the invariant, no step but one in
which power is lost changes the configuration of a configured block. -/
def Obligations.ConfigurationIsImmutable : Prop :=
  ∀ s t : State, s.inv = true → s.cfgd = true → step s = .next t →
    (∀ n ms, s.env.moves = ⟨n, .powerLoss⟩ :: ms → s.waiting = false) → s.sameConfig t

/-- 92_eei_decisions.md D29, 20_memory.md R62: a line makes at most one port event. -/
def Obligations.OnePortEventPerLine : Prop :=
  ∀ s t : State, tick s = .next t → t.trace = s.trace ∨ ∃ e, t.trace = s.trace ++ [e]

/-- 20_memory.md R52: every `MemWrite` and every `FlashErase` of ERASE is issued with `LOCKH = 1`, the one
`FlashErase` of WRITE with `LOCKH = 0`, every `MemRead` and `CrcBlock` without the lock. -/
def Obligations.FlashOperationsAndTheLock : Prop :=
  ∀ s t : State, s.lockOk = true → tick s = .next t →
    (∀ a v ok, t.trace = s.trace ++ [.memWrite a v ok] → s.lockh = true) ∧
    (∀ a ok, t.trace = s.trace ++ [.flashErase a ok] →
      (s.ph.command = some .erase ∧ s.lockh = true) ∨ (s.ph.command = some .write ∧ s.lockh = false)) ∧
    (∀ a v, t.trace = s.trace ++ [.memRead a v] → s.lockh = false) ∧
    (∀ a n v, t.trace = s.trace ++ [.crcBlock a n v] → s.lockh = false)

/-- 20_memory.md R42, R44: inside the invariant every address the block passes to the flash is a multiple
of 4 and lies, with all the words accessed, in the Region; an address to erase is a multiple of the page size. -/
def Obligations.FlashAccessesLieInTheRegion : Prop :=
  ∀ (s t : State) (e : Event), s.inv = true → tick s = .next t → t.trace = s.trace ++ [e] →
    match e with
    | .memRead a _ => a.toNat % 4 = 0 ∧ s.inRegion a.toNat
    | .memWrite a _ _ => a.toNat % 4 = 0 ∧ s.inRegion a.toNat
    | .crcBlock a n _ => a.toNat % 4 = 0 ∧ s.inRegion a.toNat ∧ s.inRegion (a.toNat + 4 * n)
    | .flashErase a _ => a.toNat % s.pageSize.toNat = 0 ∧ s.inRegion a.toNat
    | _ => True

/-- The model's memory stays in its one canonical form (strictly rising addresses, no byte listed that
reads the same unlisted) in every step, from every state. -/
def Obligations.StepKeepsTheFlashCanonical : Prop :=
  ∀ s t : State, s.mem.wf = true → step s = .next t → t.mem.wf = true

/-- 10_state.md R29, 20_memory.md R51: `LOCKH` is 1 exactly on the lines between `LockAcquire()` and
`LockRelease()`, agrees with the FlashDevice, and is 0 when the block is idle; every step keeps this. -/
def Obligations.StepKeepsTheLockDiscipline : Prop :=
  ∀ s t : State, s.lockOk = true → step s = .next t →
    t.lockOk = true ∧ (t.ph = .idle → t.lockh = false ∧ t.ctrlHeld = false)

/-- 20_memory.md R42, R44, 10_state.md R26, R27: every step keeps the machine's invariant. -/
def Obligations.StepKeepsTheInvariant : Prop :=
  ∀ s t : State, s.inv = true → step s = .next t → t.inv = true

/-- The invariant holds right after reset. -/
def Obligations.ResetMeetsTheInvariant : Prop := State.reset.inv = true ∧ State.reset.ready = false

/-- 20_memory.md R42, R44: inside the invariant no step faults: the block never makes a misaligned flash
access, never erases at an address that is no page, never reaches beyond its buffers. -/
def Obligations.StepNeverFaults : Prop :=
  ∀ (s : State) (f : Fault), s.inv = true → step s ≠ .fault f

/-! Properties of whole command sequences (D0 §8, 95_test_vectors.md T-D3). -/

/-- Round-trip: a WRITE that completes on blank words, then a READ, delivers the record. -/
def Obligations.WriteThenReadReturnsTheRecord : Prop :=
  ∀ s : State, s.ready = true → s.env.allOk s.writeCalls = true → s.targetBlank = true →
    ∃ t u, exec .write s = .next t ∧ exec .read t = .next u ∧ u.ended .read .ok .none 0 ∧
      u.rrec.take s.payloadWords.toNat = s.record

/-- 42_write.md R141: after a WRITE onto blank words, even a scan finds the slot just written and the
READ after a RESET delivers its record, when the WRITE started from the current slot and the version
does not wrap (70_reset_and_hazards.md R205). -/
def Obligations.WriteResetReadReturnsTheRecord : Prop :=
  ∀ s : State, s.ready = true → s.env.allOk s.writeCalls = true → s.targetBlank = true →
    paramsOk s.hw = true → s.cursorNow = s.scanAnswer → s.targetVersion ≠ 0 →
    ∃ t u v, exec .write s = .next t ∧ exec .reset t = .next u ∧ exec .read u = .next v ∧
      v.ended .read .ok .none 0 ∧ v.curLoc = s.target ∧ v.curVer = s.targetVersion ∧
      v.rrec.take s.payloadWords.toNat = s.record

/-- Empty store: ERASE then READ ends with `NotFound`, on hardware whose erased word's top byte is not
the magic byte (00_scope.md R6). -/
def Obligations.EraseThenReadIsNotFound : Prop :=
  ∀ s : State, s.ready = true → paramsOk s.hw = true → s.env.allOk (s.pageCount.toNat + 1) = true →
    ∃ t u, exec .erase s = .next t ∧ exec .read t = .next u ∧ u.ended .read .notFound .none 0

/-! A command and the host meanwhile. -/

/-- 30_encoding.md R75, R77, 70_reset_and_hazards.md R217: a host access that lands while a command runs
changes nothing the command goes on with: no answer, no draw, no register but `ILLCMD`, and that only by a
write. -/
def Obligations.HostAccessDuringACommandChangesOnlyIllcmd : Prop :=
  ∀ (s : State) (k : Nat) (m : Move) (ms : List Timed) (off v : Word), s.ph ≠ .idle → s.waiting = true →
    s.env.moves = ⟨k, m⟩ :: ms → off.toNat % 4 = 0 → m = .hostRead off ∨ m = .hostWrite off v →
    ∃ (e : Env) (b : Bool), step s = .next { s with env := e, illcmd := b } ∧ e.moves = ms ∧
      e.replies = s.env.replies ∧ e.replyIx = s.env.replyIx ∧ e.draws = s.env.draws ∧
      e.drawIx = s.env.drawIx ∧ (m = .hostRead off → b = s.illcmd) ∧
      (m = .hostWrite off v → e.reads = s.env.reads ∧ e.unspecIx = s.env.unspecIx ∧ (s.illcmd = true → b = true))

/-- 30_encoding.md R75 ("without further host action"), R77, 70_reset_and_hazards.md R217 (the host polls
`STATUS`): a command whose host meanwhile reads registers (but `RREC`, R25) and makes writes, which are
ignored, ends or comes to hang as the same command with no host access does: the two states differ only in
the moves still to come, in what the host read, and in `ILLCMD`. -/
def Obligations.HostAccessesDoNotChangeTheCommand : Prop :=
  ∀ (s t : State) (i : Instr), s.ph = .idle → s.hung = false →
    (∀ m ∈ s.env.moves, ∃ off v, off.toNat % 4 = 0 ∧
      (m.move = .hostRead off ∧ off.toNat < 0x2000 ∨ m.move = .hostWrite off v)) →
    exec i { s with env := { s.env with moves := [] } } = .next t → t.ph = .idle ∨ t.hung = true →
    ∃ n u, s.Course i n u ∧ (t.illcmd = true → u.illcmd = true) ∧
      t = { u with illcmd := t.illcmd, env := { u.env with moves := [], reads := s.env.reads } }
end

