-- ==== Sys2Proof/Laws/Memory.lean ====
section
/-! SUPPORT. The flash array as data: reading after writing, and that every memory operation keeps the
canonical form. -/

namespace Sys2Proof.Machine

open Sys2Proof

/-! Bytes. -/

theorem wfFrom_mono {lo lo' : Nat} (h : lo' ≤ lo) {m : Memory} (hm : m.wfFrom lo = true) :
    m.wfFrom lo' = true := by
  cases m with
  | nil => rfl
  | cons c m =>
    simp only [Memory.wfFrom, Bool.and_eq_true, decide_eq_true_eq, bne_iff_ne] at hm ⊢
    exact ⟨⟨⟨by omega, hm.1.1.2⟩, hm.1.2⟩, hm.2⟩

theorem readByte_below {m : Memory} {lo a : Nat} (hm : m.wfFrom lo = true) (ha : a < lo) :
    m.readByte a = Config.blankByte := by
  induction m generalizing lo with
  | nil => rfl
  | cons c m ih =>
    simp only [Memory.wfFrom, Bool.and_eq_true, decide_eq_true_eq] at hm
    simp only [Memory.readByte]
    rw [if_neg (by omega)]
    exact ih hm.2 (by omega)

theorem writeByte_wfFrom {m : Memory} {lo a : Nat} {v : Byte} (hm : m.wfFrom lo = true) (hlo : lo ≤ a)
    (ha : a < 2 ^ 32) : (m.writeByte a v).wfFrom lo = true := by
  induction m generalizing lo with
  | nil =>
    simp only [Memory.writeByte]
    split
    · rfl
    · simp only [Memory.wfFrom, Bool.and_eq_true, decide_eq_true_eq, bne_iff_ne]
      exact ⟨⟨⟨hlo, ha⟩, by assumption⟩, trivial⟩
  | cons c m ih =>
    simp only [Memory.wfFrom, Bool.and_eq_true, decide_eq_true_eq, bne_iff_ne] at hm
    simp only [Memory.writeByte]
    split
    · simp only [Memory.wfFrom, Bool.and_eq_true, decide_eq_true_eq, bne_iff_ne]
      exact ⟨hm.1, ih hm.2 (by omega)⟩
    · split
      · subst_vars
        split
        · exact wfFrom_mono (by omega) hm.2
        · simp only [Memory.wfFrom, Bool.and_eq_true, decide_eq_true_eq, bne_iff_ne]
          exact ⟨⟨⟨hlo, ha⟩, by assumption⟩, hm.2⟩
      · split
        · simp only [Memory.wfFrom, Bool.and_eq_true, decide_eq_true_eq, bne_iff_ne]
          exact hm
        · simp only [Memory.wfFrom, Bool.and_eq_true, decide_eq_true_eq, bne_iff_ne]
          exact ⟨⟨⟨hlo, ha⟩, by assumption⟩, ⟨⟨by omega, hm.1.1.2⟩, hm.1.2⟩, hm.2⟩

theorem readByte_writeByte {m : Memory} {lo a b : Nat} {v : Byte} (hm : m.wfFrom lo = true) :
    (m.writeByte a v).readByte b = if b = a then v else m.readByte b := by
  induction m generalizing lo with
  | nil =>
    simp only [Memory.writeByte, Memory.readByte]
    split
    · split <;> simp [Memory.readByte, *]
    · simp only [Memory.readByte, eq_comm]
  | cons c m ih =>
    simp only [Memory.wfFrom, Bool.and_eq_true, decide_eq_true_eq] at hm
    simp only [Memory.writeByte]
    split
    · simp only [Memory.readByte, ih hm.2]
      split
      · rw [if_neg (by omega)]
      · rfl
    · split
      · subst_vars
        split
        · by_cases hb : b = c.1
          · subst hb
            rw [if_pos rfl, readByte_below hm.2 (by omega)]
            exact (by assumption : v = _).symm
          · rw [if_neg hb]
            simp only [Memory.readByte]
            rw [if_neg (fun h => hb h.symm)]
        · simp only [Memory.readByte, eq_comm]
          split <;> rfl
      · split
        · by_cases hb : b = a
          · subst hb
            rw [if_pos rfl]
            simp only [Memory.readByte]
            rw [if_neg (by omega), readByte_below hm.2 (by omega)]
            exact (by assumption : v = _).symm
          · rw [if_neg hb]
        · simp only [Memory.readByte, eq_comm]

theorem wf_of_writeByte {m : Memory} {a : Nat} {v : Byte} (hm : m.wf = true) (ha : a < 2 ^ 32) :
    (m.writeByte a v).wf = true := writeByte_wfFrom hm (Nat.zero_le a) ha

theorem readByte_of_writeByte {m : Memory} {a b : Nat} {v : Byte} (hm : m.wf = true) :
    (m.writeByte a v).readByte b = if b = a then v else m.readByte b := readByte_writeByte hm

/-! Words. -/

theorem byteAddr_lt (addr : Word) (k : Nat) : byteAddr addr k < 2 ^ 32 := (addr + BitVec.ofNat 32 k).isLt

/-- In a word at a multiple of 4 the bytes lie side by side. -/
theorem byteAddr_eq {addr : Word} (h : addr.toNat % 4 = 0) {k : Nat} (hk : k < 4) :
    byteAddr addr k = addr.toNat + k := by
  have := addr.isLt
  simp only [byteAddr, BitVec.toNat_add, BitVec.toNat_ofNat]
  omega

theorem writeWord_wf {m : Memory} (hm : m.wf = true) (addr v : Word) : (m.writeWord addr v).wf = true := by
  unfold Memory.writeWord
  exact wf_of_writeByte (wf_of_writeByte (wf_of_writeByte (wf_of_writeByte hm (byteAddr_lt _ _))
    (byteAddr_lt _ _)) (byteAddr_lt _ _)) (byteAddr_lt _ _)

/-- What one byte reads as after a word was written. -/
theorem readByte_writeWord {m : Memory} (hm : m.wf = true) {addr : Word} (h : addr.toNat % 4 = 0)
    (v : Word) (b : Nat) : (m.writeWord addr v).readByte b =
      if addr.toNat ≤ b ∧ b < addr.toNat + 4 then byteOf v (b - addr.toNat) else m.readByte b := by
  have w0 := wf_of_writeByte (v := byteOf v 0) hm (byteAddr_lt addr 0)
  have w1 := wf_of_writeByte (v := byteOf v 1) w0 (byteAddr_lt addr 1)
  have w2 := wf_of_writeByte (v := byteOf v 2) w1 (byteAddr_lt addr 2)
  unfold Memory.writeWord
  rw [readByte_of_writeByte w2, readByte_of_writeByte w1, readByte_of_writeByte w0,
    readByte_of_writeByte hm, byteAddr_eq h (by omega), byteAddr_eq h (by omega),
    byteAddr_eq h (by omega), byteAddr_eq h (by omega)]
  by_cases hb : addr.toNat ≤ b ∧ b < addr.toNat + 4
  · rw [if_pos hb]
    obtain ⟨k, rfl⟩ := Nat.exists_eq_add_of_le hb.1
    have hk : k = 0 ∨ k = 1 ∨ k = 2 ∨ k = 3 := by omega
    rcases hk with rfl | rfl | rfl | rfl <;> simp
  · rw [if_neg hb, if_neg (by omega), if_neg (by omega), if_neg (by omega), if_neg (by omega)]

/-- The four bytes of a word make the word. -/
theorem word_of_bytes (v : Word) : byteOf v 3 ++ byteOf v 2 ++ byteOf v 1 ++ byteOf v 0 = v := by
  apply BitVec.eq_of_getLsbD_eq
  intro i hi
  simp only [byteOf, BitVec.getLsbD_append, BitVec.getLsbD_extractLsb']
  have h8 : i < 8 ∨ (8 ≤ i ∧ i < 16) ∨ (16 ≤ i ∧ i < 24) ∨ (24 ≤ i ∧ i < 32) := by omega
  rcases h8 with h | ⟨h, h'⟩ | ⟨h, h'⟩ | ⟨h, h'⟩
  · simp [h]
  · have e : 8 + (i - 8) = i := by omega
    simp [show ¬ i < 8 by omega, show i - 8 < 8 by omega, e]
  · have e : 16 + (i - 8 - 8) = i := by omega
    simp [show ¬ i < 8 by omega, show ¬ i - 8 < 8 by omega, show i - 8 - 8 < 8 by omega, e]
  · have e : 24 + (i - 8 - 8 - 8) = i := by omega
    simp [show ¬ i < 8 by omega, show ¬ i - 8 < 8 by omega, show ¬ i - 8 - 8 < 8 by omega,
      show i - 8 - 8 - 8 < 8 by omega, e]

/-- A word depends on its four bytes only. -/
theorem readWord_congr {m m' : Memory} {addr : Word} (h : addr.toNat % 4 = 0)
    (hb : ∀ b, addr.toNat ≤ b → b < addr.toNat + 4 → m.readByte b = m'.readByte b) :
    m.readWord addr = m'.readWord addr := by
  unfold Memory.readWord
  rw [byteAddr_eq h (by omega), byteAddr_eq h (by omega), byteAddr_eq h (by omega),
    byteAddr_eq h (by omega), hb _ (by omega) (by omega), hb _ (by omega) (by omega),
    hb _ (by omega) (by omega), hb _ (by omega) (by omega)]

/-- A word reads as the value written to it. -/
theorem readWord_writeWord_same {m : Memory} (hm : m.wf = true) {addr : Word} (h : addr.toNat % 4 = 0)
    (v : Word) : (m.writeWord addr v).readWord addr = v := by
  unfold Memory.readWord
  rw [byteAddr_eq h (by omega), byteAddr_eq h (by omega), byteAddr_eq h (by omega),
    byteAddr_eq h (by omega), readByte_writeWord hm h, readByte_writeWord hm h,
    readByte_writeWord hm h, readByte_writeWord hm h, if_pos (by omega), if_pos (by omega),
    if_pos (by omega), if_pos (by omega)]
  simpa using word_of_bytes v

/-- A word written leaves every other word alone. -/
theorem readWord_writeWord_other {m : Memory} (hm : m.wf = true) {addr addr' : Word}
    (h : addr.toNat % 4 = 0) (h' : addr'.toNat % 4 = 0) (hne : addr' ≠ addr) (v : Word) :
    (m.writeWord addr v).readWord addr' = m.readWord addr' := by
  apply readWord_congr h'
  intro b hb hb'
  have hd : addr'.toNat ≠ addr.toNat := fun e => hne (BitVec.eq_of_toNat_eq e)
  rw [readByte_writeWord hm h, if_neg (by omega)]

/-! Runs of words. -/

theorem wordAddr_toNat {addr : Word} {k : Nat} (h : addr.toNat + 4 * k < 2 ^ 32) :
    (wordAddr addr k).toNat = addr.toNat + 4 * k := by
  simp only [wordAddr, BitVec.toNat_add, BitVec.toNat_ofNat]
  omega

theorem fillWords_wf {m : Memory} (hm : m.wf = true) (addr : Word) (f : Nat → Word) (n : Nat) :
    (m.fillWords addr f n).wf = true := by
  induction n with
  | zero => exact hm
  | succ n ih => exact writeWord_wf ih _ _

/-- Filling `n` words changes no byte outside them. -/
theorem readByte_fillWords {m : Memory} (hm : m.wf = true) {addr : Word} (h : addr.toNat % 4 = 0)
    (f : Nat → Word) {n : Nat} (hn : addr.toNat + 4 * n ≤ 2 ^ 32) {b : Nat}
    (hb : ¬ (addr.toNat ≤ b ∧ b < addr.toNat + 4 * n)) :
    (m.fillWords addr f n).readByte b = m.readByte b := by
  induction n with
  | zero => rfl
  | succ n ih =>
    have e := wordAddr_toNat (addr := addr) (k := n) (by omega)
    simp only [Memory.fillWords]
    rw [readByte_writeWord (fillWords_wf hm addr f n) (by omega), if_neg (by omega),
      ih (by omega) (by omega)]

/-- Each of the words filled reads as its value. -/
theorem readWord_fillWords {m : Memory} (hm : m.wf = true) {addr : Word} (h : addr.toNat % 4 = 0)
    (f : Nat → Word) {n : Nat} (hn : addr.toNat + 4 * n ≤ 2 ^ 32) {k : Nat} (hk : k < n) :
    (m.fillWords addr f n).readWord (wordAddr addr k) = f k := by
  induction n with
  | zero => omega
  | succ n ih =>
    have e := wordAddr_toNat (addr := addr) (k := n) (by omega)
    have ek := wordAddr_toNat (addr := addr) (k := k) (by omega)
    simp only [Memory.fillWords]
    by_cases hkn : k = n
    · subst hkn
      exact readWord_writeWord_same (fillWords_wf hm addr f k) (by omega) _
    · rw [readWord_writeWord_other (fillWords_wf hm addr f n) (by omega) (by omega)
        (fun c => by have := congrArg BitVec.toNat c; omega)]
      exact ih (by omega) (by omega)

theorem readWords_length (m : Memory) (addr : Word) (n : Nat) : (m.readWords addr n).length = n := by
  simp [Memory.readWords]

theorem readWords_getD (m : Memory) (addr : Word) {n k : Nat} (hk : k < n) :
    (m.readWords addr n).getD k 0 = m.readWord (wordAddr addr k) := by
  simp [Memory.readWords, hk]

end Sys2Proof.Machine
end

