-- ==== Sys2Proof/Laws/State.lean ====
section
/-! SUPPORT. What each named update of the state does to each field: one lemma per field per update. -/

namespace Sys2Proof.Machine

open Sys2Proof

@[simp] theorem State.goto_ph (s : State) (p : Phase) : (s.goto p).ph = p := rfl
@[simp] theorem State.goto_cfgd (s : State) (p : Phase) : (s.goto p).cfgd = s.cfgd := rfl
@[simp] theorem State.goto_curv (s : State) (p : Phase) : (s.goto p).curv = s.curv := rfl
@[simp] theorem State.goto_illcmd (s : State) (p : Phase) : (s.goto p).illcmd = s.illcmd := rfl
@[simp] theorem State.goto_lockh (s : State) (p : Phase) : (s.goto p).lockh = s.lockh := rfl
@[simp] theorem State.goto_kind (s : State) (p : Phase) : (s.goto p).kind = s.kind := rfl
@[simp] theorem State.goto_fop (s : State) (p : Phase) : (s.goto p).fop = s.fop := rfl
@[simp] theorem State.goto_lastOp (s : State) (p : Phase) : (s.goto p).lastOp = s.lastOp := rfl
@[simp] theorem State.goto_errAddr (s : State) (p : Phase) : (s.goto p).errAddr = s.errAddr := rfl
@[simp] theorem State.goto_firstLoc (s : State) (p : Phase) : (s.goto p).firstLoc = s.firstLoc := rfl
@[simp] theorem State.goto_pageCount (s : State) (p : Phase) : (s.goto p).pageCount = s.pageCount := rfl
@[simp] theorem State.goto_recBytes (s : State) (p : Phase) : (s.goto p).recBytes = s.recBytes := rfl
@[simp] theorem State.goto_pageSize (s : State) (p : Phase) : (s.goto p).pageSize = s.pageSize := rfl
@[simp] theorem State.goto_slotBytes (s : State) (p : Phase) : (s.goto p).slotBytes = s.slotBytes := rfl
@[simp] theorem State.goto_entryCount (s : State) (p : Phase) : (s.goto p).entryCount = s.entryCount := rfl
@[simp] theorem State.goto_curLoc (s : State) (p : Phase) : (s.goto p).curLoc = s.curLoc := rfl
@[simp] theorem State.goto_curVer (s : State) (p : Phase) : (s.goto p).curVer = s.curVer := rfl
@[simp] theorem State.goto_wrec (s : State) (p : Phase) : (s.goto p).wrec = s.wrec := rfl
@[simp] theorem State.goto_rrec (s : State) (p : Phase) : (s.goto p).rrec = s.rrec := rfl
@[simp] theorem State.goto_wk (s : State) (p : Phase) : (s.goto p).wk = s.wk := rfl
@[simp] theorem State.goto_mem (s : State) (p : Phase) : (s.goto p).mem = s.mem := rfl
@[simp] theorem State.goto_ctrlHeld (s : State) (p : Phase) : (s.goto p).ctrlHeld = s.ctrlHeld := rfl
@[simp] theorem State.goto_acc (s : State) (p : Phase) : (s.goto p).acc = s.acc := rfl
@[simp] theorem State.goto_hung (s : State) (p : Phase) : (s.goto p).hung = s.hung := rfl
@[simp] theorem State.goto_hw (s : State) (p : Phase) : (s.goto p).hw = s.hw := rfl
@[simp] theorem State.goto_env (s : State) (p : Phase) : (s.goto p).env = s.env := rfl
@[simp] theorem State.goto_trace (s : State) (p : Phase) : (s.goto p).trace = s.trace := rfl

@[simp] theorem State.setWork_ph (s : State) (w : Work) : (s.setWork w).ph = s.ph := rfl
@[simp] theorem State.setWork_cfgd (s : State) (w : Work) : (s.setWork w).cfgd = s.cfgd := rfl
@[simp] theorem State.setWork_curv (s : State) (w : Work) : (s.setWork w).curv = s.curv := rfl
@[simp] theorem State.setWork_illcmd (s : State) (w : Work) : (s.setWork w).illcmd = s.illcmd := rfl
@[simp] theorem State.setWork_lockh (s : State) (w : Work) : (s.setWork w).lockh = s.lockh := rfl
@[simp] theorem State.setWork_kind (s : State) (w : Work) : (s.setWork w).kind = s.kind := rfl
@[simp] theorem State.setWork_fop (s : State) (w : Work) : (s.setWork w).fop = s.fop := rfl
@[simp] theorem State.setWork_lastOp (s : State) (w : Work) : (s.setWork w).lastOp = s.lastOp := rfl
@[simp] theorem State.setWork_errAddr (s : State) (w : Work) : (s.setWork w).errAddr = s.errAddr := rfl
@[simp] theorem State.setWork_firstLoc (s : State) (w : Work) : (s.setWork w).firstLoc = s.firstLoc := rfl
@[simp] theorem State.setWork_pageCount (s : State) (w : Work) : (s.setWork w).pageCount = s.pageCount := rfl
@[simp] theorem State.setWork_recBytes (s : State) (w : Work) : (s.setWork w).recBytes = s.recBytes := rfl
@[simp] theorem State.setWork_pageSize (s : State) (w : Work) : (s.setWork w).pageSize = s.pageSize := rfl
@[simp] theorem State.setWork_slotBytes (s : State) (w : Work) : (s.setWork w).slotBytes = s.slotBytes := rfl
@[simp] theorem State.setWork_entryCount (s : State) (w : Work) : (s.setWork w).entryCount = s.entryCount := rfl
@[simp] theorem State.setWork_curLoc (s : State) (w : Work) : (s.setWork w).curLoc = s.curLoc := rfl
@[simp] theorem State.setWork_curVer (s : State) (w : Work) : (s.setWork w).curVer = s.curVer := rfl
@[simp] theorem State.setWork_wrec (s : State) (w : Work) : (s.setWork w).wrec = s.wrec := rfl
@[simp] theorem State.setWork_rrec (s : State) (w : Work) : (s.setWork w).rrec = s.rrec := rfl
@[simp] theorem State.setWork_wk (s : State) (w : Work) : (s.setWork w).wk = w := rfl
@[simp] theorem State.setWork_mem (s : State) (w : Work) : (s.setWork w).mem = s.mem := rfl
@[simp] theorem State.setWork_ctrlHeld (s : State) (w : Work) : (s.setWork w).ctrlHeld = s.ctrlHeld := rfl
@[simp] theorem State.setWork_acc (s : State) (w : Work) : (s.setWork w).acc = s.acc := rfl
@[simp] theorem State.setWork_hung (s : State) (w : Work) : (s.setWork w).hung = s.hung := rfl
@[simp] theorem State.setWork_hw (s : State) (w : Work) : (s.setWork w).hw = s.hw := rfl
@[simp] theorem State.setWork_env (s : State) (w : Work) : (s.setWork w).env = s.env := rfl
@[simp] theorem State.setWork_trace (s : State) (w : Work) : (s.setWork w).trace = s.trace := rfl

@[simp] theorem State.emit_ph (s : State) (e : Event) : (s.emit e).ph = s.ph := rfl
@[simp] theorem State.emit_cfgd (s : State) (e : Event) : (s.emit e).cfgd = s.cfgd := rfl
@[simp] theorem State.emit_curv (s : State) (e : Event) : (s.emit e).curv = s.curv := rfl
@[simp] theorem State.emit_illcmd (s : State) (e : Event) : (s.emit e).illcmd = s.illcmd := rfl
@[simp] theorem State.emit_lockh (s : State) (e : Event) : (s.emit e).lockh = s.lockh := rfl
@[simp] theorem State.emit_kind (s : State) (e : Event) : (s.emit e).kind = s.kind := rfl
@[simp] theorem State.emit_fop (s : State) (e : Event) : (s.emit e).fop = s.fop := rfl
@[simp] theorem State.emit_lastOp (s : State) (e : Event) : (s.emit e).lastOp = s.lastOp := rfl
@[simp] theorem State.emit_errAddr (s : State) (e : Event) : (s.emit e).errAddr = s.errAddr := rfl
@[simp] theorem State.emit_firstLoc (s : State) (e : Event) : (s.emit e).firstLoc = s.firstLoc := rfl
@[simp] theorem State.emit_pageCount (s : State) (e : Event) : (s.emit e).pageCount = s.pageCount := rfl
@[simp] theorem State.emit_recBytes (s : State) (e : Event) : (s.emit e).recBytes = s.recBytes := rfl
@[simp] theorem State.emit_pageSize (s : State) (e : Event) : (s.emit e).pageSize = s.pageSize := rfl
@[simp] theorem State.emit_slotBytes (s : State) (e : Event) : (s.emit e).slotBytes = s.slotBytes := rfl
@[simp] theorem State.emit_entryCount (s : State) (e : Event) : (s.emit e).entryCount = s.entryCount := rfl
@[simp] theorem State.emit_curLoc (s : State) (e : Event) : (s.emit e).curLoc = s.curLoc := rfl
@[simp] theorem State.emit_curVer (s : State) (e : Event) : (s.emit e).curVer = s.curVer := rfl
@[simp] theorem State.emit_wrec (s : State) (e : Event) : (s.emit e).wrec = s.wrec := rfl
@[simp] theorem State.emit_rrec (s : State) (e : Event) : (s.emit e).rrec = s.rrec := rfl
@[simp] theorem State.emit_wk (s : State) (e : Event) : (s.emit e).wk = s.wk := rfl
@[simp] theorem State.emit_mem (s : State) (e : Event) : (s.emit e).mem = s.mem := rfl
@[simp] theorem State.emit_ctrlHeld (s : State) (e : Event) : (s.emit e).ctrlHeld = s.ctrlHeld := rfl
@[simp] theorem State.emit_acc (s : State) (e : Event) : (s.emit e).acc = s.acc := rfl
@[simp] theorem State.emit_hung (s : State) (e : Event) : (s.emit e).hung = s.hung := rfl
@[simp] theorem State.emit_hw (s : State) (e : Event) : (s.emit e).hw = s.hw := rfl
@[simp] theorem State.emit_env (s : State) (e : Event) : (s.emit e).env = s.env := rfl
@[simp] theorem State.emit_trace (s : State) (e : Event) : (s.emit e).trace = s.trace ++ [e] := rfl

@[simp] theorem State.setMem_ph (s : State) (m : Memory) : (s.setMem m).ph = s.ph := rfl
@[simp] theorem State.setMem_cfgd (s : State) (m : Memory) : (s.setMem m).cfgd = s.cfgd := rfl
@[simp] theorem State.setMem_curv (s : State) (m : Memory) : (s.setMem m).curv = s.curv := rfl
@[simp] theorem State.setMem_illcmd (s : State) (m : Memory) : (s.setMem m).illcmd = s.illcmd := rfl
@[simp] theorem State.setMem_lockh (s : State) (m : Memory) : (s.setMem m).lockh = s.lockh := rfl
@[simp] theorem State.setMem_kind (s : State) (m : Memory) : (s.setMem m).kind = s.kind := rfl
@[simp] theorem State.setMem_fop (s : State) (m : Memory) : (s.setMem m).fop = s.fop := rfl
@[simp] theorem State.setMem_lastOp (s : State) (m : Memory) : (s.setMem m).lastOp = s.lastOp := rfl
@[simp] theorem State.setMem_errAddr (s : State) (m : Memory) : (s.setMem m).errAddr = s.errAddr := rfl
@[simp] theorem State.setMem_firstLoc (s : State) (m : Memory) : (s.setMem m).firstLoc = s.firstLoc := rfl
@[simp] theorem State.setMem_pageCount (s : State) (m : Memory) : (s.setMem m).pageCount = s.pageCount := rfl
@[simp] theorem State.setMem_recBytes (s : State) (m : Memory) : (s.setMem m).recBytes = s.recBytes := rfl
@[simp] theorem State.setMem_pageSize (s : State) (m : Memory) : (s.setMem m).pageSize = s.pageSize := rfl
@[simp] theorem State.setMem_slotBytes (s : State) (m : Memory) : (s.setMem m).slotBytes = s.slotBytes := rfl
@[simp] theorem State.setMem_entryCount (s : State) (m : Memory) : (s.setMem m).entryCount = s.entryCount := rfl
@[simp] theorem State.setMem_curLoc (s : State) (m : Memory) : (s.setMem m).curLoc = s.curLoc := rfl
@[simp] theorem State.setMem_curVer (s : State) (m : Memory) : (s.setMem m).curVer = s.curVer := rfl
@[simp] theorem State.setMem_wrec (s : State) (m : Memory) : (s.setMem m).wrec = s.wrec := rfl
@[simp] theorem State.setMem_rrec (s : State) (m : Memory) : (s.setMem m).rrec = s.rrec := rfl
@[simp] theorem State.setMem_wk (s : State) (m : Memory) : (s.setMem m).wk = s.wk := rfl
@[simp] theorem State.setMem_mem (s : State) (m : Memory) : (s.setMem m).mem = m := rfl
@[simp] theorem State.setMem_ctrlHeld (s : State) (m : Memory) : (s.setMem m).ctrlHeld = s.ctrlHeld := rfl
@[simp] theorem State.setMem_acc (s : State) (m : Memory) : (s.setMem m).acc = s.acc := rfl
@[simp] theorem State.setMem_hung (s : State) (m : Memory) : (s.setMem m).hung = s.hung := rfl
@[simp] theorem State.setMem_hw (s : State) (m : Memory) : (s.setMem m).hw = s.hw := rfl
@[simp] theorem State.setMem_env (s : State) (m : Memory) : (s.setMem m).env = s.env := rfl
@[simp] theorem State.setMem_trace (s : State) (m : Memory) : (s.setMem m).trace = s.trace := rfl

@[simp] theorem State.setAcc_ph (s : State) (v : Word) : (s.setAcc v).ph = s.ph := rfl
@[simp] theorem State.setAcc_cfgd (s : State) (v : Word) : (s.setAcc v).cfgd = s.cfgd := rfl
@[simp] theorem State.setAcc_curv (s : State) (v : Word) : (s.setAcc v).curv = s.curv := rfl
@[simp] theorem State.setAcc_illcmd (s : State) (v : Word) : (s.setAcc v).illcmd = s.illcmd := rfl
@[simp] theorem State.setAcc_lockh (s : State) (v : Word) : (s.setAcc v).lockh = s.lockh := rfl
@[simp] theorem State.setAcc_kind (s : State) (v : Word) : (s.setAcc v).kind = s.kind := rfl
@[simp] theorem State.setAcc_fop (s : State) (v : Word) : (s.setAcc v).fop = s.fop := rfl
@[simp] theorem State.setAcc_lastOp (s : State) (v : Word) : (s.setAcc v).lastOp = s.lastOp := rfl
@[simp] theorem State.setAcc_errAddr (s : State) (v : Word) : (s.setAcc v).errAddr = s.errAddr := rfl
@[simp] theorem State.setAcc_firstLoc (s : State) (v : Word) : (s.setAcc v).firstLoc = s.firstLoc := rfl
@[simp] theorem State.setAcc_pageCount (s : State) (v : Word) : (s.setAcc v).pageCount = s.pageCount := rfl
@[simp] theorem State.setAcc_recBytes (s : State) (v : Word) : (s.setAcc v).recBytes = s.recBytes := rfl
@[simp] theorem State.setAcc_pageSize (s : State) (v : Word) : (s.setAcc v).pageSize = s.pageSize := rfl
@[simp] theorem State.setAcc_slotBytes (s : State) (v : Word) : (s.setAcc v).slotBytes = s.slotBytes := rfl
@[simp] theorem State.setAcc_entryCount (s : State) (v : Word) : (s.setAcc v).entryCount = s.entryCount := rfl
@[simp] theorem State.setAcc_curLoc (s : State) (v : Word) : (s.setAcc v).curLoc = s.curLoc := rfl
@[simp] theorem State.setAcc_curVer (s : State) (v : Word) : (s.setAcc v).curVer = s.curVer := rfl
@[simp] theorem State.setAcc_wrec (s : State) (v : Word) : (s.setAcc v).wrec = s.wrec := rfl
@[simp] theorem State.setAcc_rrec (s : State) (v : Word) : (s.setAcc v).rrec = s.rrec := rfl
@[simp] theorem State.setAcc_wk (s : State) (v : Word) : (s.setAcc v).wk = s.wk := rfl
@[simp] theorem State.setAcc_mem (s : State) (v : Word) : (s.setAcc v).mem = s.mem := rfl
@[simp] theorem State.setAcc_ctrlHeld (s : State) (v : Word) : (s.setAcc v).ctrlHeld = s.ctrlHeld := rfl
@[simp] theorem State.setAcc_acc (s : State) (v : Word) : (s.setAcc v).acc = v := rfl
@[simp] theorem State.setAcc_hung (s : State) (v : Word) : (s.setAcc v).hung = s.hung := rfl
@[simp] theorem State.setAcc_hw (s : State) (v : Word) : (s.setAcc v).hw = s.hw := rfl
@[simp] theorem State.setAcc_env (s : State) (v : Word) : (s.setAcc v).env = s.env := rfl
@[simp] theorem State.setAcc_trace (s : State) (v : Word) : (s.setAcc v).trace = s.trace := rfl

@[simp] theorem State.illegal_ph (s : State) : (s.illegal).ph = s.ph := rfl
@[simp] theorem State.illegal_cfgd (s : State) : (s.illegal).cfgd = s.cfgd := rfl
@[simp] theorem State.illegal_curv (s : State) : (s.illegal).curv = s.curv := rfl
@[simp] theorem State.illegal_illcmd (s : State) : (s.illegal).illcmd = true := rfl
@[simp] theorem State.illegal_lockh (s : State) : (s.illegal).lockh = s.lockh := rfl
@[simp] theorem State.illegal_kind (s : State) : (s.illegal).kind = s.kind := rfl
@[simp] theorem State.illegal_fop (s : State) : (s.illegal).fop = s.fop := rfl
@[simp] theorem State.illegal_lastOp (s : State) : (s.illegal).lastOp = s.lastOp := rfl
@[simp] theorem State.illegal_errAddr (s : State) : (s.illegal).errAddr = s.errAddr := rfl
@[simp] theorem State.illegal_firstLoc (s : State) : (s.illegal).firstLoc = s.firstLoc := rfl
@[simp] theorem State.illegal_pageCount (s : State) : (s.illegal).pageCount = s.pageCount := rfl
@[simp] theorem State.illegal_recBytes (s : State) : (s.illegal).recBytes = s.recBytes := rfl
@[simp] theorem State.illegal_pageSize (s : State) : (s.illegal).pageSize = s.pageSize := rfl
@[simp] theorem State.illegal_slotBytes (s : State) : (s.illegal).slotBytes = s.slotBytes := rfl
@[simp] theorem State.illegal_entryCount (s : State) : (s.illegal).entryCount = s.entryCount := rfl
@[simp] theorem State.illegal_curLoc (s : State) : (s.illegal).curLoc = s.curLoc := rfl
@[simp] theorem State.illegal_curVer (s : State) : (s.illegal).curVer = s.curVer := rfl
@[simp] theorem State.illegal_wrec (s : State) : (s.illegal).wrec = s.wrec := rfl
@[simp] theorem State.illegal_rrec (s : State) : (s.illegal).rrec = s.rrec := rfl
@[simp] theorem State.illegal_wk (s : State) : (s.illegal).wk = s.wk := rfl
@[simp] theorem State.illegal_mem (s : State) : (s.illegal).mem = s.mem := rfl
@[simp] theorem State.illegal_ctrlHeld (s : State) : (s.illegal).ctrlHeld = s.ctrlHeld := rfl
@[simp] theorem State.illegal_acc (s : State) : (s.illegal).acc = s.acc := rfl
@[simp] theorem State.illegal_hung (s : State) : (s.illegal).hung = s.hung := rfl
@[simp] theorem State.illegal_hw (s : State) : (s.illegal).hw = s.hw := rfl
@[simp] theorem State.illegal_env (s : State) : (s.illegal).env = s.env := rfl
@[simp] theorem State.illegal_trace (s : State) : (s.illegal).trace = s.trace := rfl

@[simp] theorem State.hang_ph (s : State) : (s.hang).ph = s.ph := rfl
@[simp] theorem State.hang_cfgd (s : State) : (s.hang).cfgd = s.cfgd := rfl
@[simp] theorem State.hang_curv (s : State) : (s.hang).curv = s.curv := rfl
@[simp] theorem State.hang_illcmd (s : State) : (s.hang).illcmd = s.illcmd := rfl
@[simp] theorem State.hang_lockh (s : State) : (s.hang).lockh = s.lockh := rfl
@[simp] theorem State.hang_kind (s : State) : (s.hang).kind = s.kind := rfl
@[simp] theorem State.hang_fop (s : State) : (s.hang).fop = s.fop := rfl
@[simp] theorem State.hang_lastOp (s : State) : (s.hang).lastOp = s.lastOp := rfl
@[simp] theorem State.hang_errAddr (s : State) : (s.hang).errAddr = s.errAddr := rfl
@[simp] theorem State.hang_firstLoc (s : State) : (s.hang).firstLoc = s.firstLoc := rfl
@[simp] theorem State.hang_pageCount (s : State) : (s.hang).pageCount = s.pageCount := rfl
@[simp] theorem State.hang_recBytes (s : State) : (s.hang).recBytes = s.recBytes := rfl
@[simp] theorem State.hang_pageSize (s : State) : (s.hang).pageSize = s.pageSize := rfl
@[simp] theorem State.hang_slotBytes (s : State) : (s.hang).slotBytes = s.slotBytes := rfl
@[simp] theorem State.hang_entryCount (s : State) : (s.hang).entryCount = s.entryCount := rfl
@[simp] theorem State.hang_curLoc (s : State) : (s.hang).curLoc = s.curLoc := rfl
@[simp] theorem State.hang_curVer (s : State) : (s.hang).curVer = s.curVer := rfl
@[simp] theorem State.hang_wrec (s : State) : (s.hang).wrec = s.wrec := rfl
@[simp] theorem State.hang_rrec (s : State) : (s.hang).rrec = s.rrec := rfl
@[simp] theorem State.hang_wk (s : State) : (s.hang).wk = s.wk := rfl
@[simp] theorem State.hang_mem (s : State) : (s.hang).mem = s.mem := rfl
@[simp] theorem State.hang_ctrlHeld (s : State) : (s.hang).ctrlHeld = s.ctrlHeld := rfl
@[simp] theorem State.hang_acc (s : State) : (s.hang).acc = s.acc := rfl
@[simp] theorem State.hang_hung (s : State) : (s.hang).hung = true := rfl
@[simp] theorem State.hang_hw (s : State) : (s.hang).hw = s.hw := rfl
@[simp] theorem State.hang_env (s : State) : (s.hang).env = s.env := rfl
@[simp] theorem State.hang_trace (s : State) : (s.hang).trace = s.trace := rfl

@[simp] theorem State.setLock_ph (s : State) (b : Bool) : (s.setLock b).ph = s.ph := rfl
@[simp] theorem State.setLock_cfgd (s : State) (b : Bool) : (s.setLock b).cfgd = s.cfgd := rfl
@[simp] theorem State.setLock_curv (s : State) (b : Bool) : (s.setLock b).curv = s.curv := rfl
@[simp] theorem State.setLock_illcmd (s : State) (b : Bool) : (s.setLock b).illcmd = s.illcmd := rfl
@[simp] theorem State.setLock_lockh (s : State) (b : Bool) : (s.setLock b).lockh = b := rfl
@[simp] theorem State.setLock_kind (s : State) (b : Bool) : (s.setLock b).kind = s.kind := rfl
@[simp] theorem State.setLock_fop (s : State) (b : Bool) : (s.setLock b).fop = s.fop := rfl
@[simp] theorem State.setLock_lastOp (s : State) (b : Bool) : (s.setLock b).lastOp = s.lastOp := rfl
@[simp] theorem State.setLock_errAddr (s : State) (b : Bool) : (s.setLock b).errAddr = s.errAddr := rfl
@[simp] theorem State.setLock_firstLoc (s : State) (b : Bool) : (s.setLock b).firstLoc = s.firstLoc := rfl
@[simp] theorem State.setLock_pageCount (s : State) (b : Bool) : (s.setLock b).pageCount = s.pageCount := rfl
@[simp] theorem State.setLock_recBytes (s : State) (b : Bool) : (s.setLock b).recBytes = s.recBytes := rfl
@[simp] theorem State.setLock_pageSize (s : State) (b : Bool) : (s.setLock b).pageSize = s.pageSize := rfl
@[simp] theorem State.setLock_slotBytes (s : State) (b : Bool) : (s.setLock b).slotBytes = s.slotBytes := rfl
@[simp] theorem State.setLock_entryCount (s : State) (b : Bool) : (s.setLock b).entryCount = s.entryCount := rfl
@[simp] theorem State.setLock_curLoc (s : State) (b : Bool) : (s.setLock b).curLoc = s.curLoc := rfl
@[simp] theorem State.setLock_curVer (s : State) (b : Bool) : (s.setLock b).curVer = s.curVer := rfl
@[simp] theorem State.setLock_wrec (s : State) (b : Bool) : (s.setLock b).wrec = s.wrec := rfl
@[simp] theorem State.setLock_rrec (s : State) (b : Bool) : (s.setLock b).rrec = s.rrec := rfl
@[simp] theorem State.setLock_wk (s : State) (b : Bool) : (s.setLock b).wk = s.wk := rfl
@[simp] theorem State.setLock_mem (s : State) (b : Bool) : (s.setLock b).mem = s.mem := rfl
@[simp] theorem State.setLock_ctrlHeld (s : State) (b : Bool) : (s.setLock b).ctrlHeld = b := rfl
@[simp] theorem State.setLock_acc (s : State) (b : Bool) : (s.setLock b).acc = s.acc := rfl
@[simp] theorem State.setLock_hung (s : State) (b : Bool) : (s.setLock b).hung = s.hung := rfl
@[simp] theorem State.setLock_hw (s : State) (b : Bool) : (s.setLock b).hw = s.hw := rfl
@[simp] theorem State.setLock_env (s : State) (b : Bool) : (s.setLock b).env = s.env := rfl
@[simp] theorem State.setLock_trace (s : State) (b : Bool) : (s.setLock b).trace = s.trace := rfl

@[simp] theorem State.forgetCursor_ph (s : State) : (s.forgetCursor).ph = s.ph := rfl
@[simp] theorem State.forgetCursor_cfgd (s : State) : (s.forgetCursor).cfgd = s.cfgd := rfl
@[simp] theorem State.forgetCursor_curv (s : State) : (s.forgetCursor).curv = false := rfl
@[simp] theorem State.forgetCursor_illcmd (s : State) : (s.forgetCursor).illcmd = s.illcmd := rfl
@[simp] theorem State.forgetCursor_lockh (s : State) : (s.forgetCursor).lockh = s.lockh := rfl
@[simp] theorem State.forgetCursor_kind (s : State) : (s.forgetCursor).kind = s.kind := rfl
@[simp] theorem State.forgetCursor_fop (s : State) : (s.forgetCursor).fop = s.fop := rfl
@[simp] theorem State.forgetCursor_lastOp (s : State) : (s.forgetCursor).lastOp = s.lastOp := rfl
@[simp] theorem State.forgetCursor_errAddr (s : State) : (s.forgetCursor).errAddr = s.errAddr := rfl
@[simp] theorem State.forgetCursor_firstLoc (s : State) : (s.forgetCursor).firstLoc = s.firstLoc := rfl
@[simp] theorem State.forgetCursor_pageCount (s : State) : (s.forgetCursor).pageCount = s.pageCount := rfl
@[simp] theorem State.forgetCursor_recBytes (s : State) : (s.forgetCursor).recBytes = s.recBytes := rfl
@[simp] theorem State.forgetCursor_pageSize (s : State) : (s.forgetCursor).pageSize = s.pageSize := rfl
@[simp] theorem State.forgetCursor_slotBytes (s : State) : (s.forgetCursor).slotBytes = s.slotBytes := rfl
@[simp] theorem State.forgetCursor_entryCount (s : State) : (s.forgetCursor).entryCount = s.entryCount := rfl
@[simp] theorem State.forgetCursor_curLoc (s : State) : (s.forgetCursor).curLoc = s.curLoc := rfl
@[simp] theorem State.forgetCursor_curVer (s : State) : (s.forgetCursor).curVer = s.curVer := rfl
@[simp] theorem State.forgetCursor_wrec (s : State) : (s.forgetCursor).wrec = s.wrec := rfl
@[simp] theorem State.forgetCursor_rrec (s : State) : (s.forgetCursor).rrec = s.rrec := rfl
@[simp] theorem State.forgetCursor_wk (s : State) : (s.forgetCursor).wk = s.wk := rfl
@[simp] theorem State.forgetCursor_mem (s : State) : (s.forgetCursor).mem = s.mem := rfl
@[simp] theorem State.forgetCursor_ctrlHeld (s : State) : (s.forgetCursor).ctrlHeld = s.ctrlHeld := rfl
@[simp] theorem State.forgetCursor_acc (s : State) : (s.forgetCursor).acc = s.acc := rfl
@[simp] theorem State.forgetCursor_hung (s : State) : (s.forgetCursor).hung = s.hung := rfl
@[simp] theorem State.forgetCursor_hw (s : State) : (s.forgetCursor).hw = s.hw := rfl
@[simp] theorem State.forgetCursor_env (s : State) : (s.forgetCursor).env = s.env := rfl
@[simp] theorem State.forgetCursor_trace (s : State) : (s.forgetCursor).trace = s.trace := rfl

@[simp] theorem State.setCursor_ph (s : State) (loc : Word) (ver : Ver) : (s.setCursor loc ver).ph = s.ph := rfl
@[simp] theorem State.setCursor_cfgd (s : State) (loc : Word) (ver : Ver) : (s.setCursor loc ver).cfgd = s.cfgd := rfl
@[simp] theorem State.setCursor_curv (s : State) (loc : Word) (ver : Ver) : (s.setCursor loc ver).curv = true := rfl
@[simp] theorem State.setCursor_illcmd (s : State) (loc : Word) (ver : Ver) : (s.setCursor loc ver).illcmd = s.illcmd := rfl
@[simp] theorem State.setCursor_lockh (s : State) (loc : Word) (ver : Ver) : (s.setCursor loc ver).lockh = s.lockh := rfl
@[simp] theorem State.setCursor_kind (s : State) (loc : Word) (ver : Ver) : (s.setCursor loc ver).kind = s.kind := rfl
@[simp] theorem State.setCursor_fop (s : State) (loc : Word) (ver : Ver) : (s.setCursor loc ver).fop = s.fop := rfl
@[simp] theorem State.setCursor_lastOp (s : State) (loc : Word) (ver : Ver) : (s.setCursor loc ver).lastOp = s.lastOp := rfl
@[simp] theorem State.setCursor_errAddr (s : State) (loc : Word) (ver : Ver) : (s.setCursor loc ver).errAddr = s.errAddr := rfl
@[simp] theorem State.setCursor_firstLoc (s : State) (loc : Word) (ver : Ver) : (s.setCursor loc ver).firstLoc = s.firstLoc := rfl
@[simp] theorem State.setCursor_pageCount (s : State) (loc : Word) (ver : Ver) : (s.setCursor loc ver).pageCount = s.pageCount := rfl
@[simp] theorem State.setCursor_recBytes (s : State) (loc : Word) (ver : Ver) : (s.setCursor loc ver).recBytes = s.recBytes := rfl
@[simp] theorem State.setCursor_pageSize (s : State) (loc : Word) (ver : Ver) : (s.setCursor loc ver).pageSize = s.pageSize := rfl
@[simp] theorem State.setCursor_slotBytes (s : State) (loc : Word) (ver : Ver) : (s.setCursor loc ver).slotBytes = s.slotBytes := rfl
@[simp] theorem State.setCursor_entryCount (s : State) (loc : Word) (ver : Ver) : (s.setCursor loc ver).entryCount = s.entryCount := rfl
@[simp] theorem State.setCursor_curLoc (s : State) (loc : Word) (ver : Ver) : (s.setCursor loc ver).curLoc = loc := rfl
@[simp] theorem State.setCursor_curVer (s : State) (loc : Word) (ver : Ver) : (s.setCursor loc ver).curVer = ver := rfl
@[simp] theorem State.setCursor_wrec (s : State) (loc : Word) (ver : Ver) : (s.setCursor loc ver).wrec = s.wrec := rfl
@[simp] theorem State.setCursor_rrec (s : State) (loc : Word) (ver : Ver) : (s.setCursor loc ver).rrec = s.rrec := rfl
@[simp] theorem State.setCursor_wk (s : State) (loc : Word) (ver : Ver) : (s.setCursor loc ver).wk = s.wk := rfl
@[simp] theorem State.setCursor_mem (s : State) (loc : Word) (ver : Ver) : (s.setCursor loc ver).mem = s.mem := rfl
@[simp] theorem State.setCursor_ctrlHeld (s : State) (loc : Word) (ver : Ver) : (s.setCursor loc ver).ctrlHeld = s.ctrlHeld := rfl
@[simp] theorem State.setCursor_acc (s : State) (loc : Word) (ver : Ver) : (s.setCursor loc ver).acc = s.acc := rfl
@[simp] theorem State.setCursor_hung (s : State) (loc : Word) (ver : Ver) : (s.setCursor loc ver).hung = s.hung := rfl
@[simp] theorem State.setCursor_hw (s : State) (loc : Word) (ver : Ver) : (s.setCursor loc ver).hw = s.hw := rfl
@[simp] theorem State.setCursor_env (s : State) (loc : Word) (ver : Ver) : (s.setCursor loc ver).env = s.env := rfl
@[simp] theorem State.setCursor_trace (s : State) (loc : Word) (ver : Ver) : (s.setCursor loc ver).trace = s.trace := rfl

@[simp] theorem State.useReply_ph (s : State) : (s.useReply).ph = s.ph := rfl
@[simp] theorem State.useReply_cfgd (s : State) : (s.useReply).cfgd = s.cfgd := rfl
@[simp] theorem State.useReply_curv (s : State) : (s.useReply).curv = s.curv := rfl
@[simp] theorem State.useReply_illcmd (s : State) : (s.useReply).illcmd = s.illcmd := rfl
@[simp] theorem State.useReply_lockh (s : State) : (s.useReply).lockh = s.lockh := rfl
@[simp] theorem State.useReply_kind (s : State) : (s.useReply).kind = s.kind := rfl
@[simp] theorem State.useReply_fop (s : State) : (s.useReply).fop = s.fop := rfl
@[simp] theorem State.useReply_lastOp (s : State) : (s.useReply).lastOp = s.lastOp := rfl
@[simp] theorem State.useReply_errAddr (s : State) : (s.useReply).errAddr = s.errAddr := rfl
@[simp] theorem State.useReply_firstLoc (s : State) : (s.useReply).firstLoc = s.firstLoc := rfl
@[simp] theorem State.useReply_pageCount (s : State) : (s.useReply).pageCount = s.pageCount := rfl
@[simp] theorem State.useReply_recBytes (s : State) : (s.useReply).recBytes = s.recBytes := rfl
@[simp] theorem State.useReply_pageSize (s : State) : (s.useReply).pageSize = s.pageSize := rfl
@[simp] theorem State.useReply_slotBytes (s : State) : (s.useReply).slotBytes = s.slotBytes := rfl
@[simp] theorem State.useReply_entryCount (s : State) : (s.useReply).entryCount = s.entryCount := rfl
@[simp] theorem State.useReply_curLoc (s : State) : (s.useReply).curLoc = s.curLoc := rfl
@[simp] theorem State.useReply_curVer (s : State) : (s.useReply).curVer = s.curVer := rfl
@[simp] theorem State.useReply_wrec (s : State) : (s.useReply).wrec = s.wrec := rfl
@[simp] theorem State.useReply_rrec (s : State) : (s.useReply).rrec = s.rrec := rfl
@[simp] theorem State.useReply_wk (s : State) : (s.useReply).wk = s.wk := rfl
@[simp] theorem State.useReply_mem (s : State) : (s.useReply).mem = s.mem := rfl
@[simp] theorem State.useReply_ctrlHeld (s : State) : (s.useReply).ctrlHeld = s.ctrlHeld := rfl
@[simp] theorem State.useReply_acc (s : State) : (s.useReply).acc = s.acc := rfl
@[simp] theorem State.useReply_hung (s : State) : (s.useReply).hung = s.hung := rfl
@[simp] theorem State.useReply_hw (s : State) : (s.useReply).hw = s.hw := rfl
@[simp] theorem State.useReply_env (s : State) : (s.useReply).env = { s.env with replyIx := s.env.replyIx + 1 } := rfl
@[simp] theorem State.useReply_trace (s : State) : (s.useReply).trace = s.trace := rfl

@[simp] theorem State.useDraws_ph (s : State) (n : Nat) : (s.useDraws n).ph = s.ph := rfl
@[simp] theorem State.useDraws_cfgd (s : State) (n : Nat) : (s.useDraws n).cfgd = s.cfgd := rfl
@[simp] theorem State.useDraws_curv (s : State) (n : Nat) : (s.useDraws n).curv = s.curv := rfl
@[simp] theorem State.useDraws_illcmd (s : State) (n : Nat) : (s.useDraws n).illcmd = s.illcmd := rfl
@[simp] theorem State.useDraws_lockh (s : State) (n : Nat) : (s.useDraws n).lockh = s.lockh := rfl
@[simp] theorem State.useDraws_kind (s : State) (n : Nat) : (s.useDraws n).kind = s.kind := rfl
@[simp] theorem State.useDraws_fop (s : State) (n : Nat) : (s.useDraws n).fop = s.fop := rfl
@[simp] theorem State.useDraws_lastOp (s : State) (n : Nat) : (s.useDraws n).lastOp = s.lastOp := rfl
@[simp] theorem State.useDraws_errAddr (s : State) (n : Nat) : (s.useDraws n).errAddr = s.errAddr := rfl
@[simp] theorem State.useDraws_firstLoc (s : State) (n : Nat) : (s.useDraws n).firstLoc = s.firstLoc := rfl
@[simp] theorem State.useDraws_pageCount (s : State) (n : Nat) : (s.useDraws n).pageCount = s.pageCount := rfl
@[simp] theorem State.useDraws_recBytes (s : State) (n : Nat) : (s.useDraws n).recBytes = s.recBytes := rfl
@[simp] theorem State.useDraws_pageSize (s : State) (n : Nat) : (s.useDraws n).pageSize = s.pageSize := rfl
@[simp] theorem State.useDraws_slotBytes (s : State) (n : Nat) : (s.useDraws n).slotBytes = s.slotBytes := rfl
@[simp] theorem State.useDraws_entryCount (s : State) (n : Nat) : (s.useDraws n).entryCount = s.entryCount := rfl
@[simp] theorem State.useDraws_curLoc (s : State) (n : Nat) : (s.useDraws n).curLoc = s.curLoc := rfl
@[simp] theorem State.useDraws_curVer (s : State) (n : Nat) : (s.useDraws n).curVer = s.curVer := rfl
@[simp] theorem State.useDraws_wrec (s : State) (n : Nat) : (s.useDraws n).wrec = s.wrec := rfl
@[simp] theorem State.useDraws_rrec (s : State) (n : Nat) : (s.useDraws n).rrec = s.rrec := rfl
@[simp] theorem State.useDraws_wk (s : State) (n : Nat) : (s.useDraws n).wk = s.wk := rfl
@[simp] theorem State.useDraws_mem (s : State) (n : Nat) : (s.useDraws n).mem = s.mem := rfl
@[simp] theorem State.useDraws_ctrlHeld (s : State) (n : Nat) : (s.useDraws n).ctrlHeld = s.ctrlHeld := rfl
@[simp] theorem State.useDraws_acc (s : State) (n : Nat) : (s.useDraws n).acc = s.acc := rfl
@[simp] theorem State.useDraws_hung (s : State) (n : Nat) : (s.useDraws n).hung = s.hung := rfl
@[simp] theorem State.useDraws_hw (s : State) (n : Nat) : (s.useDraws n).hw = s.hw := rfl
@[simp] theorem State.useDraws_env (s : State) (n : Nat) : (s.useDraws n).env = { s.env with drawIx := s.env.drawIx + n } := rfl
@[simp] theorem State.useDraws_trace (s : State) (n : Nat) : (s.useDraws n).trace = s.trace := rfl

@[simp] theorem State.useUnspec_ph (s : State) (n : Nat) : (s.useUnspec n).ph = s.ph := rfl
@[simp] theorem State.useUnspec_cfgd (s : State) (n : Nat) : (s.useUnspec n).cfgd = s.cfgd := rfl
@[simp] theorem State.useUnspec_curv (s : State) (n : Nat) : (s.useUnspec n).curv = s.curv := rfl
@[simp] theorem State.useUnspec_illcmd (s : State) (n : Nat) : (s.useUnspec n).illcmd = s.illcmd := rfl
@[simp] theorem State.useUnspec_lockh (s : State) (n : Nat) : (s.useUnspec n).lockh = s.lockh := rfl
@[simp] theorem State.useUnspec_kind (s : State) (n : Nat) : (s.useUnspec n).kind = s.kind := rfl
@[simp] theorem State.useUnspec_fop (s : State) (n : Nat) : (s.useUnspec n).fop = s.fop := rfl
@[simp] theorem State.useUnspec_lastOp (s : State) (n : Nat) : (s.useUnspec n).lastOp = s.lastOp := rfl
@[simp] theorem State.useUnspec_errAddr (s : State) (n : Nat) : (s.useUnspec n).errAddr = s.errAddr := rfl
@[simp] theorem State.useUnspec_firstLoc (s : State) (n : Nat) : (s.useUnspec n).firstLoc = s.firstLoc := rfl
@[simp] theorem State.useUnspec_pageCount (s : State) (n : Nat) : (s.useUnspec n).pageCount = s.pageCount := rfl
@[simp] theorem State.useUnspec_recBytes (s : State) (n : Nat) : (s.useUnspec n).recBytes = s.recBytes := rfl
@[simp] theorem State.useUnspec_pageSize (s : State) (n : Nat) : (s.useUnspec n).pageSize = s.pageSize := rfl
@[simp] theorem State.useUnspec_slotBytes (s : State) (n : Nat) : (s.useUnspec n).slotBytes = s.slotBytes := rfl
@[simp] theorem State.useUnspec_entryCount (s : State) (n : Nat) : (s.useUnspec n).entryCount = s.entryCount := rfl
@[simp] theorem State.useUnspec_curLoc (s : State) (n : Nat) : (s.useUnspec n).curLoc = s.curLoc := rfl
@[simp] theorem State.useUnspec_curVer (s : State) (n : Nat) : (s.useUnspec n).curVer = s.curVer := rfl
@[simp] theorem State.useUnspec_wrec (s : State) (n : Nat) : (s.useUnspec n).wrec = s.wrec := rfl
@[simp] theorem State.useUnspec_rrec (s : State) (n : Nat) : (s.useUnspec n).rrec = s.rrec := rfl
@[simp] theorem State.useUnspec_wk (s : State) (n : Nat) : (s.useUnspec n).wk = s.wk := rfl
@[simp] theorem State.useUnspec_mem (s : State) (n : Nat) : (s.useUnspec n).mem = s.mem := rfl
@[simp] theorem State.useUnspec_ctrlHeld (s : State) (n : Nat) : (s.useUnspec n).ctrlHeld = s.ctrlHeld := rfl
@[simp] theorem State.useUnspec_acc (s : State) (n : Nat) : (s.useUnspec n).acc = s.acc := rfl
@[simp] theorem State.useUnspec_hung (s : State) (n : Nat) : (s.useUnspec n).hung = s.hung := rfl
@[simp] theorem State.useUnspec_hw (s : State) (n : Nat) : (s.useUnspec n).hw = s.hw := rfl
@[simp] theorem State.useUnspec_env (s : State) (n : Nat) : (s.useUnspec n).env = { s.env with unspecIx := s.env.unspecIx + n } := rfl
@[simp] theorem State.useUnspec_trace (s : State) (n : Nat) : (s.useUnspec n).trace = s.trace := rfl

@[simp] theorem State.accUnspecified_ph (s : State) : (s.accUnspecified).ph = s.ph := rfl
@[simp] theorem State.accUnspecified_cfgd (s : State) : (s.accUnspecified).cfgd = s.cfgd := rfl
@[simp] theorem State.accUnspecified_curv (s : State) : (s.accUnspecified).curv = s.curv := rfl
@[simp] theorem State.accUnspecified_illcmd (s : State) : (s.accUnspecified).illcmd = s.illcmd := rfl
@[simp] theorem State.accUnspecified_lockh (s : State) : (s.accUnspecified).lockh = s.lockh := rfl
@[simp] theorem State.accUnspecified_kind (s : State) : (s.accUnspecified).kind = s.kind := rfl
@[simp] theorem State.accUnspecified_fop (s : State) : (s.accUnspecified).fop = s.fop := rfl
@[simp] theorem State.accUnspecified_lastOp (s : State) : (s.accUnspecified).lastOp = s.lastOp := rfl
@[simp] theorem State.accUnspecified_errAddr (s : State) : (s.accUnspecified).errAddr = s.errAddr := rfl
@[simp] theorem State.accUnspecified_firstLoc (s : State) : (s.accUnspecified).firstLoc = s.firstLoc := rfl
@[simp] theorem State.accUnspecified_pageCount (s : State) : (s.accUnspecified).pageCount = s.pageCount := rfl
@[simp] theorem State.accUnspecified_recBytes (s : State) : (s.accUnspecified).recBytes = s.recBytes := rfl
@[simp] theorem State.accUnspecified_pageSize (s : State) : (s.accUnspecified).pageSize = s.pageSize := rfl
@[simp] theorem State.accUnspecified_slotBytes (s : State) : (s.accUnspecified).slotBytes = s.slotBytes := rfl
@[simp] theorem State.accUnspecified_entryCount (s : State) : (s.accUnspecified).entryCount = s.entryCount := rfl
@[simp] theorem State.accUnspecified_curLoc (s : State) : (s.accUnspecified).curLoc = s.curLoc := rfl
@[simp] theorem State.accUnspecified_curVer (s : State) : (s.accUnspecified).curVer = s.curVer := rfl
@[simp] theorem State.accUnspecified_wrec (s : State) : (s.accUnspecified).wrec = s.wrec := rfl
@[simp] theorem State.accUnspecified_rrec (s : State) : (s.accUnspecified).rrec = s.rrec := rfl
@[simp] theorem State.accUnspecified_wk (s : State) : (s.accUnspecified).wk = s.wk := rfl
@[simp] theorem State.accUnspecified_mem (s : State) : (s.accUnspecified).mem = s.mem := rfl
@[simp] theorem State.accUnspecified_ctrlHeld (s : State) : (s.accUnspecified).ctrlHeld = s.ctrlHeld := rfl
@[simp] theorem State.accUnspecified_acc (s : State) : (s.accUnspecified).acc = s.env.unspecAt 0 := rfl
@[simp] theorem State.accUnspecified_hung (s : State) : (s.accUnspecified).hung = s.hung := rfl
@[simp] theorem State.accUnspecified_hw (s : State) : (s.accUnspecified).hw = s.hw := rfl
@[simp] theorem State.accUnspecified_env (s : State) : (s.accUnspecified).env = { s.env with unspecIx := s.env.unspecIx + 1 } := rfl
@[simp] theorem State.accUnspecified_trace (s : State) : (s.accUnspecified).trace = s.trace := rfl

@[simp] theorem State.finish_ph (s : State) (k : Kind) (o : FlashOp) (a : Word) : (s.finish k o a).ph = .idle := rfl
@[simp] theorem State.finish_cfgd (s : State) (k : Kind) (o : FlashOp) (a : Word) : (s.finish k o a).cfgd = s.cfgd := rfl
@[simp] theorem State.finish_curv (s : State) (k : Kind) (o : FlashOp) (a : Word) : (s.finish k o a).curv = s.curv := rfl
@[simp] theorem State.finish_illcmd (s : State) (k : Kind) (o : FlashOp) (a : Word) : (s.finish k o a).illcmd = s.illcmd := rfl
@[simp] theorem State.finish_lockh (s : State) (k : Kind) (o : FlashOp) (a : Word) : (s.finish k o a).lockh = s.lockh := rfl
@[simp] theorem State.finish_kind (s : State) (k : Kind) (o : FlashOp) (a : Word) : (s.finish k o a).kind = k := rfl
@[simp] theorem State.finish_fop (s : State) (k : Kind) (o : FlashOp) (a : Word) : (s.finish k o a).fop = o := rfl
@[simp] theorem State.finish_lastOp (s : State) (k : Kind) (o : FlashOp) (a : Word) : (s.finish k o a).lastOp = s.ph.command := rfl
@[simp] theorem State.finish_errAddr (s : State) (k : Kind) (o : FlashOp) (a : Word) : (s.finish k o a).errAddr = a := rfl
@[simp] theorem State.finish_firstLoc (s : State) (k : Kind) (o : FlashOp) (a : Word) : (s.finish k o a).firstLoc = s.firstLoc := rfl
@[simp] theorem State.finish_pageCount (s : State) (k : Kind) (o : FlashOp) (a : Word) : (s.finish k o a).pageCount = s.pageCount := rfl
@[simp] theorem State.finish_recBytes (s : State) (k : Kind) (o : FlashOp) (a : Word) : (s.finish k o a).recBytes = s.recBytes := rfl
@[simp] theorem State.finish_pageSize (s : State) (k : Kind) (o : FlashOp) (a : Word) : (s.finish k o a).pageSize = s.pageSize := rfl
@[simp] theorem State.finish_slotBytes (s : State) (k : Kind) (o : FlashOp) (a : Word) : (s.finish k o a).slotBytes = s.slotBytes := rfl
@[simp] theorem State.finish_entryCount (s : State) (k : Kind) (o : FlashOp) (a : Word) : (s.finish k o a).entryCount = s.entryCount := rfl
@[simp] theorem State.finish_curLoc (s : State) (k : Kind) (o : FlashOp) (a : Word) : (s.finish k o a).curLoc = s.curLoc := rfl
@[simp] theorem State.finish_curVer (s : State) (k : Kind) (o : FlashOp) (a : Word) : (s.finish k o a).curVer = s.curVer := rfl
@[simp] theorem State.finish_wrec (s : State) (k : Kind) (o : FlashOp) (a : Word) : (s.finish k o a).wrec = s.wrec := rfl
@[simp] theorem State.finish_rrec (s : State) (k : Kind) (o : FlashOp) (a : Word) : (s.finish k o a).rrec = s.rrec := rfl
@[simp] theorem State.finish_wk (s : State) (k : Kind) (o : FlashOp) (a : Word) : (s.finish k o a).wk = s.wk := rfl
@[simp] theorem State.finish_mem (s : State) (k : Kind) (o : FlashOp) (a : Word) : (s.finish k o a).mem = s.mem := rfl
@[simp] theorem State.finish_ctrlHeld (s : State) (k : Kind) (o : FlashOp) (a : Word) : (s.finish k o a).ctrlHeld = s.ctrlHeld := rfl
@[simp] theorem State.finish_acc (s : State) (k : Kind) (o : FlashOp) (a : Word) : (s.finish k o a).acc = s.acc := rfl
@[simp] theorem State.finish_hung (s : State) (k : Kind) (o : FlashOp) (a : Word) : (s.finish k o a).hung = s.hung := rfl
@[simp] theorem State.finish_hw (s : State) (k : Kind) (o : FlashOp) (a : Word) : (s.finish k o a).hw = s.hw := rfl
@[simp] theorem State.finish_env (s : State) (k : Kind) (o : FlashOp) (a : Word) : (s.finish k o a).env = s.env := rfl
@[simp] theorem State.finish_trace (s : State) (k : Kind) (o : FlashOp) (a : Word) : (s.finish k o a).trace = s.trace := rfl

@[simp] theorem State.emitPageSize_ph (s : State) : (s.emitPageSize).ph = s.ph := rfl
@[simp] theorem State.emitPageSize_cfgd (s : State) : (s.emitPageSize).cfgd = s.cfgd := rfl
@[simp] theorem State.emitPageSize_curv (s : State) : (s.emitPageSize).curv = s.curv := rfl
@[simp] theorem State.emitPageSize_illcmd (s : State) : (s.emitPageSize).illcmd = s.illcmd := rfl
@[simp] theorem State.emitPageSize_lockh (s : State) : (s.emitPageSize).lockh = s.lockh := rfl
@[simp] theorem State.emitPageSize_kind (s : State) : (s.emitPageSize).kind = s.kind := rfl
@[simp] theorem State.emitPageSize_fop (s : State) : (s.emitPageSize).fop = s.fop := rfl
@[simp] theorem State.emitPageSize_lastOp (s : State) : (s.emitPageSize).lastOp = s.lastOp := rfl
@[simp] theorem State.emitPageSize_errAddr (s : State) : (s.emitPageSize).errAddr = s.errAddr := rfl
@[simp] theorem State.emitPageSize_firstLoc (s : State) : (s.emitPageSize).firstLoc = s.firstLoc := rfl
@[simp] theorem State.emitPageSize_pageCount (s : State) : (s.emitPageSize).pageCount = s.pageCount := rfl
@[simp] theorem State.emitPageSize_recBytes (s : State) : (s.emitPageSize).recBytes = s.recBytes := rfl
@[simp] theorem State.emitPageSize_pageSize (s : State) : (s.emitPageSize).pageSize = s.pageSize := rfl
@[simp] theorem State.emitPageSize_slotBytes (s : State) : (s.emitPageSize).slotBytes = s.slotBytes := rfl
@[simp] theorem State.emitPageSize_entryCount (s : State) : (s.emitPageSize).entryCount = s.entryCount := rfl
@[simp] theorem State.emitPageSize_curLoc (s : State) : (s.emitPageSize).curLoc = s.curLoc := rfl
@[simp] theorem State.emitPageSize_curVer (s : State) : (s.emitPageSize).curVer = s.curVer := rfl
@[simp] theorem State.emitPageSize_wrec (s : State) : (s.emitPageSize).wrec = s.wrec := rfl
@[simp] theorem State.emitPageSize_rrec (s : State) : (s.emitPageSize).rrec = s.rrec := rfl
@[simp] theorem State.emitPageSize_wk (s : State) : (s.emitPageSize).wk = s.wk := rfl
@[simp] theorem State.emitPageSize_mem (s : State) : (s.emitPageSize).mem = s.mem := rfl
@[simp] theorem State.emitPageSize_ctrlHeld (s : State) : (s.emitPageSize).ctrlHeld = s.ctrlHeld := rfl
@[simp] theorem State.emitPageSize_acc (s : State) : (s.emitPageSize).acc = s.acc := rfl
@[simp] theorem State.emitPageSize_hung (s : State) : (s.emitPageSize).hung = s.hung := rfl
@[simp] theorem State.emitPageSize_hw (s : State) : (s.emitPageSize).hw = s.hw := rfl
@[simp] theorem State.emitPageSize_env (s : State) : (s.emitPageSize).env = s.env := rfl
@[simp] theorem State.emitPageSize_trace (s : State) : (s.emitPageSize).trace = s.trace ++ [.flashPageSize s.hw.pageSize] := rfl

@[simp] theorem State.lockRelease_ph (s : State) : (s.lockRelease).ph = s.ph := rfl
@[simp] theorem State.lockRelease_cfgd (s : State) : (s.lockRelease).cfgd = s.cfgd := rfl
@[simp] theorem State.lockRelease_curv (s : State) : (s.lockRelease).curv = s.curv := rfl
@[simp] theorem State.lockRelease_illcmd (s : State) : (s.lockRelease).illcmd = s.illcmd := rfl
@[simp] theorem State.lockRelease_lockh (s : State) : (s.lockRelease).lockh = false := rfl
@[simp] theorem State.lockRelease_kind (s : State) : (s.lockRelease).kind = s.kind := rfl
@[simp] theorem State.lockRelease_fop (s : State) : (s.lockRelease).fop = s.fop := rfl
@[simp] theorem State.lockRelease_lastOp (s : State) : (s.lockRelease).lastOp = s.lastOp := rfl
@[simp] theorem State.lockRelease_errAddr (s : State) : (s.lockRelease).errAddr = s.errAddr := rfl
@[simp] theorem State.lockRelease_firstLoc (s : State) : (s.lockRelease).firstLoc = s.firstLoc := rfl
@[simp] theorem State.lockRelease_pageCount (s : State) : (s.lockRelease).pageCount = s.pageCount := rfl
@[simp] theorem State.lockRelease_recBytes (s : State) : (s.lockRelease).recBytes = s.recBytes := rfl
@[simp] theorem State.lockRelease_pageSize (s : State) : (s.lockRelease).pageSize = s.pageSize := rfl
@[simp] theorem State.lockRelease_slotBytes (s : State) : (s.lockRelease).slotBytes = s.slotBytes := rfl
@[simp] theorem State.lockRelease_entryCount (s : State) : (s.lockRelease).entryCount = s.entryCount := rfl
@[simp] theorem State.lockRelease_curLoc (s : State) : (s.lockRelease).curLoc = s.curLoc := rfl
@[simp] theorem State.lockRelease_curVer (s : State) : (s.lockRelease).curVer = s.curVer := rfl
@[simp] theorem State.lockRelease_wrec (s : State) : (s.lockRelease).wrec = s.wrec := rfl
@[simp] theorem State.lockRelease_rrec (s : State) : (s.lockRelease).rrec = s.rrec := rfl
@[simp] theorem State.lockRelease_wk (s : State) : (s.lockRelease).wk = s.wk := rfl
@[simp] theorem State.lockRelease_mem (s : State) : (s.lockRelease).mem = s.mem := rfl
@[simp] theorem State.lockRelease_ctrlHeld (s : State) : (s.lockRelease).ctrlHeld = false := rfl
@[simp] theorem State.lockRelease_acc (s : State) : (s.lockRelease).acc = s.acc := rfl
@[simp] theorem State.lockRelease_hung (s : State) : (s.lockRelease).hung = s.hung := rfl
@[simp] theorem State.lockRelease_hw (s : State) : (s.lockRelease).hw = s.hw := rfl
@[simp] theorem State.lockRelease_env (s : State) : (s.lockRelease).env = s.env := rfl
@[simp] theorem State.lockRelease_trace (s : State) : (s.lockRelease).trace = s.trace ++ [.lockRelease] := rfl

@[simp] theorem State.crcReset_ph (s : State) : (s.crcReset).ph = s.ph := rfl
@[simp] theorem State.crcReset_cfgd (s : State) : (s.crcReset).cfgd = s.cfgd := rfl
@[simp] theorem State.crcReset_curv (s : State) : (s.crcReset).curv = s.curv := rfl
@[simp] theorem State.crcReset_illcmd (s : State) : (s.crcReset).illcmd = s.illcmd := rfl
@[simp] theorem State.crcReset_lockh (s : State) : (s.crcReset).lockh = s.lockh := rfl
@[simp] theorem State.crcReset_kind (s : State) : (s.crcReset).kind = s.kind := rfl
@[simp] theorem State.crcReset_fop (s : State) : (s.crcReset).fop = s.fop := rfl
@[simp] theorem State.crcReset_lastOp (s : State) : (s.crcReset).lastOp = s.lastOp := rfl
@[simp] theorem State.crcReset_errAddr (s : State) : (s.crcReset).errAddr = s.errAddr := rfl
@[simp] theorem State.crcReset_firstLoc (s : State) : (s.crcReset).firstLoc = s.firstLoc := rfl
@[simp] theorem State.crcReset_pageCount (s : State) : (s.crcReset).pageCount = s.pageCount := rfl
@[simp] theorem State.crcReset_recBytes (s : State) : (s.crcReset).recBytes = s.recBytes := rfl
@[simp] theorem State.crcReset_pageSize (s : State) : (s.crcReset).pageSize = s.pageSize := rfl
@[simp] theorem State.crcReset_slotBytes (s : State) : (s.crcReset).slotBytes = s.slotBytes := rfl
@[simp] theorem State.crcReset_entryCount (s : State) : (s.crcReset).entryCount = s.entryCount := rfl
@[simp] theorem State.crcReset_curLoc (s : State) : (s.crcReset).curLoc = s.curLoc := rfl
@[simp] theorem State.crcReset_curVer (s : State) : (s.crcReset).curVer = s.curVer := rfl
@[simp] theorem State.crcReset_wrec (s : State) : (s.crcReset).wrec = s.wrec := rfl
@[simp] theorem State.crcReset_rrec (s : State) : (s.crcReset).rrec = s.rrec := rfl
@[simp] theorem State.crcReset_wk (s : State) : (s.crcReset).wk = s.wk := rfl
@[simp] theorem State.crcReset_mem (s : State) : (s.crcReset).mem = s.mem := rfl
@[simp] theorem State.crcReset_ctrlHeld (s : State) : (s.crcReset).ctrlHeld = s.ctrlHeld := rfl
@[simp] theorem State.crcReset_acc (s : State) : (s.crcReset).acc = crcInit s.hw.crc := rfl
@[simp] theorem State.crcReset_hung (s : State) : (s.crcReset).hung = s.hung := rfl
@[simp] theorem State.crcReset_hw (s : State) : (s.crcReset).hw = s.hw := rfl
@[simp] theorem State.crcReset_env (s : State) : (s.crcReset).env = s.env := rfl
@[simp] theorem State.crcReset_trace (s : State) : (s.crcReset).trace = s.trace ++ [.crcReset] := rfl

@[simp] theorem State.crcAcc_ph (s : State) (w : Word) : (s.crcAcc w).ph = s.ph := rfl
@[simp] theorem State.crcAcc_cfgd (s : State) (w : Word) : (s.crcAcc w).cfgd = s.cfgd := rfl
@[simp] theorem State.crcAcc_curv (s : State) (w : Word) : (s.crcAcc w).curv = s.curv := rfl
@[simp] theorem State.crcAcc_illcmd (s : State) (w : Word) : (s.crcAcc w).illcmd = s.illcmd := rfl
@[simp] theorem State.crcAcc_lockh (s : State) (w : Word) : (s.crcAcc w).lockh = s.lockh := rfl
@[simp] theorem State.crcAcc_kind (s : State) (w : Word) : (s.crcAcc w).kind = s.kind := rfl
@[simp] theorem State.crcAcc_fop (s : State) (w : Word) : (s.crcAcc w).fop = s.fop := rfl
@[simp] theorem State.crcAcc_lastOp (s : State) (w : Word) : (s.crcAcc w).lastOp = s.lastOp := rfl
@[simp] theorem State.crcAcc_errAddr (s : State) (w : Word) : (s.crcAcc w).errAddr = s.errAddr := rfl
@[simp] theorem State.crcAcc_firstLoc (s : State) (w : Word) : (s.crcAcc w).firstLoc = s.firstLoc := rfl
@[simp] theorem State.crcAcc_pageCount (s : State) (w : Word) : (s.crcAcc w).pageCount = s.pageCount := rfl
@[simp] theorem State.crcAcc_recBytes (s : State) (w : Word) : (s.crcAcc w).recBytes = s.recBytes := rfl
@[simp] theorem State.crcAcc_pageSize (s : State) (w : Word) : (s.crcAcc w).pageSize = s.pageSize := rfl
@[simp] theorem State.crcAcc_slotBytes (s : State) (w : Word) : (s.crcAcc w).slotBytes = s.slotBytes := rfl
@[simp] theorem State.crcAcc_entryCount (s : State) (w : Word) : (s.crcAcc w).entryCount = s.entryCount := rfl
@[simp] theorem State.crcAcc_curLoc (s : State) (w : Word) : (s.crcAcc w).curLoc = s.curLoc := rfl
@[simp] theorem State.crcAcc_curVer (s : State) (w : Word) : (s.crcAcc w).curVer = s.curVer := rfl
@[simp] theorem State.crcAcc_wrec (s : State) (w : Word) : (s.crcAcc w).wrec = s.wrec := rfl
@[simp] theorem State.crcAcc_rrec (s : State) (w : Word) : (s.crcAcc w).rrec = s.rrec := rfl
@[simp] theorem State.crcAcc_wk (s : State) (w : Word) : (s.crcAcc w).wk = s.wk := rfl
@[simp] theorem State.crcAcc_mem (s : State) (w : Word) : (s.crcAcc w).mem = s.mem := rfl
@[simp] theorem State.crcAcc_ctrlHeld (s : State) (w : Word) : (s.crcAcc w).ctrlHeld = s.ctrlHeld := rfl
@[simp] theorem State.crcAcc_acc (s : State) (w : Word) : (s.crcAcc w).acc = crcStep s.hw.crc s.acc w := rfl
@[simp] theorem State.crcAcc_hung (s : State) (w : Word) : (s.crcAcc w).hung = s.hung := rfl
@[simp] theorem State.crcAcc_hw (s : State) (w : Word) : (s.crcAcc w).hw = s.hw := rfl
@[simp] theorem State.crcAcc_env (s : State) (w : Word) : (s.crcAcc w).env = s.env := rfl
@[simp] theorem State.crcAcc_trace (s : State) (w : Word) : (s.crcAcc w).trace = s.trace ++ [.crcAcc w] := rfl

@[simp] theorem State.crcValue_ph (s : State) : (s.crcValue).ph = s.ph := rfl
@[simp] theorem State.crcValue_cfgd (s : State) : (s.crcValue).cfgd = s.cfgd := rfl
@[simp] theorem State.crcValue_curv (s : State) : (s.crcValue).curv = s.curv := rfl
@[simp] theorem State.crcValue_illcmd (s : State) : (s.crcValue).illcmd = s.illcmd := rfl
@[simp] theorem State.crcValue_lockh (s : State) : (s.crcValue).lockh = s.lockh := rfl
@[simp] theorem State.crcValue_kind (s : State) : (s.crcValue).kind = s.kind := rfl
@[simp] theorem State.crcValue_fop (s : State) : (s.crcValue).fop = s.fop := rfl
@[simp] theorem State.crcValue_lastOp (s : State) : (s.crcValue).lastOp = s.lastOp := rfl
@[simp] theorem State.crcValue_errAddr (s : State) : (s.crcValue).errAddr = s.errAddr := rfl
@[simp] theorem State.crcValue_firstLoc (s : State) : (s.crcValue).firstLoc = s.firstLoc := rfl
@[simp] theorem State.crcValue_pageCount (s : State) : (s.crcValue).pageCount = s.pageCount := rfl
@[simp] theorem State.crcValue_recBytes (s : State) : (s.crcValue).recBytes = s.recBytes := rfl
@[simp] theorem State.crcValue_pageSize (s : State) : (s.crcValue).pageSize = s.pageSize := rfl
@[simp] theorem State.crcValue_slotBytes (s : State) : (s.crcValue).slotBytes = s.slotBytes := rfl
@[simp] theorem State.crcValue_entryCount (s : State) : (s.crcValue).entryCount = s.entryCount := rfl
@[simp] theorem State.crcValue_curLoc (s : State) : (s.crcValue).curLoc = s.curLoc := rfl
@[simp] theorem State.crcValue_curVer (s : State) : (s.crcValue).curVer = s.curVer := rfl
@[simp] theorem State.crcValue_wrec (s : State) : (s.crcValue).wrec = s.wrec := rfl
@[simp] theorem State.crcValue_rrec (s : State) : (s.crcValue).rrec = s.rrec := rfl
@[simp] theorem State.crcValue_wk (s : State) : (s.crcValue).wk = s.wk := rfl
@[simp] theorem State.crcValue_mem (s : State) : (s.crcValue).mem = s.mem := rfl
@[simp] theorem State.crcValue_ctrlHeld (s : State) : (s.crcValue).ctrlHeld = s.ctrlHeld := rfl
@[simp] theorem State.crcValue_acc (s : State) : (s.crcValue).acc = s.acc := rfl
@[simp] theorem State.crcValue_hung (s : State) : (s.crcValue).hung = s.hung := rfl
@[simp] theorem State.crcValue_hw (s : State) : (s.crcValue).hw = s.hw := rfl
@[simp] theorem State.crcValue_env (s : State) : (s.crcValue).env = s.env := rfl
@[simp] theorem State.crcValue_trace (s : State) : (s.crcValue).trace = s.trace ++ [.crcValue s.acc] := rfl

@[simp] theorem State.rngNext_ph (s : State) : (s.rngNext).ph = s.ph := rfl
@[simp] theorem State.rngNext_cfgd (s : State) : (s.rngNext).cfgd = s.cfgd := rfl
@[simp] theorem State.rngNext_curv (s : State) : (s.rngNext).curv = s.curv := rfl
@[simp] theorem State.rngNext_illcmd (s : State) : (s.rngNext).illcmd = s.illcmd := rfl
@[simp] theorem State.rngNext_lockh (s : State) : (s.rngNext).lockh = s.lockh := rfl
@[simp] theorem State.rngNext_kind (s : State) : (s.rngNext).kind = s.kind := rfl
@[simp] theorem State.rngNext_fop (s : State) : (s.rngNext).fop = s.fop := rfl
@[simp] theorem State.rngNext_lastOp (s : State) : (s.rngNext).lastOp = s.lastOp := rfl
@[simp] theorem State.rngNext_errAddr (s : State) : (s.rngNext).errAddr = s.errAddr := rfl
@[simp] theorem State.rngNext_firstLoc (s : State) : (s.rngNext).firstLoc = s.firstLoc := rfl
@[simp] theorem State.rngNext_pageCount (s : State) : (s.rngNext).pageCount = s.pageCount := rfl
@[simp] theorem State.rngNext_recBytes (s : State) : (s.rngNext).recBytes = s.recBytes := rfl
@[simp] theorem State.rngNext_pageSize (s : State) : (s.rngNext).pageSize = s.pageSize := rfl
@[simp] theorem State.rngNext_slotBytes (s : State) : (s.rngNext).slotBytes = s.slotBytes := rfl
@[simp] theorem State.rngNext_entryCount (s : State) : (s.rngNext).entryCount = s.entryCount := rfl
@[simp] theorem State.rngNext_curLoc (s : State) : (s.rngNext).curLoc = s.curLoc := rfl
@[simp] theorem State.rngNext_curVer (s : State) : (s.rngNext).curVer = s.curVer := rfl
@[simp] theorem State.rngNext_wrec (s : State) : (s.rngNext).wrec = s.wrec := rfl
@[simp] theorem State.rngNext_rrec (s : State) : (s.rngNext).rrec = s.rrec := rfl
@[simp] theorem State.rngNext_wk (s : State) : (s.rngNext).wk = s.wk := rfl
@[simp] theorem State.rngNext_mem (s : State) : (s.rngNext).mem = s.mem := rfl
@[simp] theorem State.rngNext_ctrlHeld (s : State) : (s.rngNext).ctrlHeld = s.ctrlHeld := rfl
@[simp] theorem State.rngNext_acc (s : State) : (s.rngNext).acc = s.acc := rfl
@[simp] theorem State.rngNext_hung (s : State) : (s.rngNext).hung = s.hung := rfl
@[simp] theorem State.rngNext_hw (s : State) : (s.rngNext).hw = s.hw := rfl
@[simp] theorem State.rngNext_env (s : State) : (s.rngNext).env = { s.env with drawIx := s.env.drawIx + 1 } := rfl
@[simp] theorem State.rngNext_trace (s : State) : (s.rngNext).trace = s.trace ++ [.rngNext (s.env.drawAt 0)] := rfl

@[simp] theorem State.scramblePage_ph (s : State) (a : Word) : (s.scramblePage a).ph = s.ph := rfl
@[simp] theorem State.scramblePage_cfgd (s : State) (a : Word) : (s.scramblePage a).cfgd = s.cfgd := rfl
@[simp] theorem State.scramblePage_curv (s : State) (a : Word) : (s.scramblePage a).curv = s.curv := rfl
@[simp] theorem State.scramblePage_illcmd (s : State) (a : Word) : (s.scramblePage a).illcmd = s.illcmd := rfl
@[simp] theorem State.scramblePage_lockh (s : State) (a : Word) : (s.scramblePage a).lockh = s.lockh := rfl
@[simp] theorem State.scramblePage_kind (s : State) (a : Word) : (s.scramblePage a).kind = s.kind := rfl
@[simp] theorem State.scramblePage_fop (s : State) (a : Word) : (s.scramblePage a).fop = s.fop := rfl
@[simp] theorem State.scramblePage_lastOp (s : State) (a : Word) : (s.scramblePage a).lastOp = s.lastOp := rfl
@[simp] theorem State.scramblePage_errAddr (s : State) (a : Word) : (s.scramblePage a).errAddr = s.errAddr := rfl
@[simp] theorem State.scramblePage_firstLoc (s : State) (a : Word) : (s.scramblePage a).firstLoc = s.firstLoc := rfl
@[simp] theorem State.scramblePage_pageCount (s : State) (a : Word) : (s.scramblePage a).pageCount = s.pageCount := rfl
@[simp] theorem State.scramblePage_recBytes (s : State) (a : Word) : (s.scramblePage a).recBytes = s.recBytes := rfl
@[simp] theorem State.scramblePage_pageSize (s : State) (a : Word) : (s.scramblePage a).pageSize = s.pageSize := rfl
@[simp] theorem State.scramblePage_slotBytes (s : State) (a : Word) : (s.scramblePage a).slotBytes = s.slotBytes := rfl
@[simp] theorem State.scramblePage_entryCount (s : State) (a : Word) : (s.scramblePage a).entryCount = s.entryCount := rfl
@[simp] theorem State.scramblePage_curLoc (s : State) (a : Word) : (s.scramblePage a).curLoc = s.curLoc := rfl
@[simp] theorem State.scramblePage_curVer (s : State) (a : Word) : (s.scramblePage a).curVer = s.curVer := rfl
@[simp] theorem State.scramblePage_wrec (s : State) (a : Word) : (s.scramblePage a).wrec = s.wrec := rfl
@[simp] theorem State.scramblePage_rrec (s : State) (a : Word) : (s.scramblePage a).rrec = s.rrec := rfl
@[simp] theorem State.scramblePage_wk (s : State) (a : Word) : (s.scramblePage a).wk = s.wk := rfl
@[simp] theorem State.scramblePage_mem (s : State) (a : Word) : (s.scramblePage a).mem = s.mem.fillWords a s.env.drawAt s.deviceWords := rfl
@[simp] theorem State.scramblePage_ctrlHeld (s : State) (a : Word) : (s.scramblePage a).ctrlHeld = s.ctrlHeld := rfl
@[simp] theorem State.scramblePage_acc (s : State) (a : Word) : (s.scramblePage a).acc = s.acc := rfl
@[simp] theorem State.scramblePage_hung (s : State) (a : Word) : (s.scramblePage a).hung = s.hung := rfl
@[simp] theorem State.scramblePage_hw (s : State) (a : Word) : (s.scramblePage a).hw = s.hw := rfl
@[simp] theorem State.scramblePage_env (s : State) (a : Word) : (s.scramblePage a).env = { s.env with drawIx := s.env.drawIx + s.deviceWords } := rfl
@[simp] theorem State.scramblePage_trace (s : State) (a : Word) : (s.scramblePage a).trace = s.trace := rfl

@[simp] theorem State.blankPage_ph (s : State) (a : Word) : (s.blankPage a).ph = s.ph := rfl
@[simp] theorem State.blankPage_cfgd (s : State) (a : Word) : (s.blankPage a).cfgd = s.cfgd := rfl
@[simp] theorem State.blankPage_curv (s : State) (a : Word) : (s.blankPage a).curv = s.curv := rfl
@[simp] theorem State.blankPage_illcmd (s : State) (a : Word) : (s.blankPage a).illcmd = s.illcmd := rfl
@[simp] theorem State.blankPage_lockh (s : State) (a : Word) : (s.blankPage a).lockh = s.lockh := rfl
@[simp] theorem State.blankPage_kind (s : State) (a : Word) : (s.blankPage a).kind = s.kind := rfl
@[simp] theorem State.blankPage_fop (s : State) (a : Word) : (s.blankPage a).fop = s.fop := rfl
@[simp] theorem State.blankPage_lastOp (s : State) (a : Word) : (s.blankPage a).lastOp = s.lastOp := rfl
@[simp] theorem State.blankPage_errAddr (s : State) (a : Word) : (s.blankPage a).errAddr = s.errAddr := rfl
@[simp] theorem State.blankPage_firstLoc (s : State) (a : Word) : (s.blankPage a).firstLoc = s.firstLoc := rfl
@[simp] theorem State.blankPage_pageCount (s : State) (a : Word) : (s.blankPage a).pageCount = s.pageCount := rfl
@[simp] theorem State.blankPage_recBytes (s : State) (a : Word) : (s.blankPage a).recBytes = s.recBytes := rfl
@[simp] theorem State.blankPage_pageSize (s : State) (a : Word) : (s.blankPage a).pageSize = s.pageSize := rfl
@[simp] theorem State.blankPage_slotBytes (s : State) (a : Word) : (s.blankPage a).slotBytes = s.slotBytes := rfl
@[simp] theorem State.blankPage_entryCount (s : State) (a : Word) : (s.blankPage a).entryCount = s.entryCount := rfl
@[simp] theorem State.blankPage_curLoc (s : State) (a : Word) : (s.blankPage a).curLoc = s.curLoc := rfl
@[simp] theorem State.blankPage_curVer (s : State) (a : Word) : (s.blankPage a).curVer = s.curVer := rfl
@[simp] theorem State.blankPage_wrec (s : State) (a : Word) : (s.blankPage a).wrec = s.wrec := rfl
@[simp] theorem State.blankPage_rrec (s : State) (a : Word) : (s.blankPage a).rrec = s.rrec := rfl
@[simp] theorem State.blankPage_wk (s : State) (a : Word) : (s.blankPage a).wk = s.wk := rfl
@[simp] theorem State.blankPage_mem (s : State) (a : Word) : (s.blankPage a).mem = s.mem.fillWords a (fun _ => s.hw.erasedWord) s.deviceWords := rfl
@[simp] theorem State.blankPage_ctrlHeld (s : State) (a : Word) : (s.blankPage a).ctrlHeld = s.ctrlHeld := rfl
@[simp] theorem State.blankPage_acc (s : State) (a : Word) : (s.blankPage a).acc = s.acc := rfl
@[simp] theorem State.blankPage_hung (s : State) (a : Word) : (s.blankPage a).hung = s.hung := rfl
@[simp] theorem State.blankPage_hw (s : State) (a : Word) : (s.blankPage a).hw = s.hw := rfl
@[simp] theorem State.blankPage_env (s : State) (a : Word) : (s.blankPage a).env = s.env := rfl
@[simp] theorem State.blankPage_trace (s : State) (a : Word) : (s.blankPage a).trace = s.trace := rfl

@[simp] theorem State.setRrec_ph (s : State) (j : Nat) (v : Word) : (s.setRrec j v).ph = s.ph := rfl
@[simp] theorem State.setRrec_cfgd (s : State) (j : Nat) (v : Word) : (s.setRrec j v).cfgd = s.cfgd := rfl
@[simp] theorem State.setRrec_curv (s : State) (j : Nat) (v : Word) : (s.setRrec j v).curv = s.curv := rfl
@[simp] theorem State.setRrec_illcmd (s : State) (j : Nat) (v : Word) : (s.setRrec j v).illcmd = s.illcmd := rfl
@[simp] theorem State.setRrec_lockh (s : State) (j : Nat) (v : Word) : (s.setRrec j v).lockh = s.lockh := rfl
@[simp] theorem State.setRrec_kind (s : State) (j : Nat) (v : Word) : (s.setRrec j v).kind = s.kind := rfl
@[simp] theorem State.setRrec_fop (s : State) (j : Nat) (v : Word) : (s.setRrec j v).fop = s.fop := rfl
@[simp] theorem State.setRrec_lastOp (s : State) (j : Nat) (v : Word) : (s.setRrec j v).lastOp = s.lastOp := rfl
@[simp] theorem State.setRrec_errAddr (s : State) (j : Nat) (v : Word) : (s.setRrec j v).errAddr = s.errAddr := rfl
@[simp] theorem State.setRrec_firstLoc (s : State) (j : Nat) (v : Word) : (s.setRrec j v).firstLoc = s.firstLoc := rfl
@[simp] theorem State.setRrec_pageCount (s : State) (j : Nat) (v : Word) : (s.setRrec j v).pageCount = s.pageCount := rfl
@[simp] theorem State.setRrec_recBytes (s : State) (j : Nat) (v : Word) : (s.setRrec j v).recBytes = s.recBytes := rfl
@[simp] theorem State.setRrec_pageSize (s : State) (j : Nat) (v : Word) : (s.setRrec j v).pageSize = s.pageSize := rfl
@[simp] theorem State.setRrec_slotBytes (s : State) (j : Nat) (v : Word) : (s.setRrec j v).slotBytes = s.slotBytes := rfl
@[simp] theorem State.setRrec_entryCount (s : State) (j : Nat) (v : Word) : (s.setRrec j v).entryCount = s.entryCount := rfl
@[simp] theorem State.setRrec_curLoc (s : State) (j : Nat) (v : Word) : (s.setRrec j v).curLoc = s.curLoc := rfl
@[simp] theorem State.setRrec_curVer (s : State) (j : Nat) (v : Word) : (s.setRrec j v).curVer = s.curVer := rfl
@[simp] theorem State.setRrec_wrec (s : State) (j : Nat) (v : Word) : (s.setRrec j v).wrec = s.wrec := rfl
@[simp] theorem State.setRrec_rrec (s : State) (j : Nat) (v : Word) : (s.setRrec j v).rrec = s.rrec.set j v := rfl
@[simp] theorem State.setRrec_wk (s : State) (j : Nat) (v : Word) : (s.setRrec j v).wk = s.wk := rfl
@[simp] theorem State.setRrec_mem (s : State) (j : Nat) (v : Word) : (s.setRrec j v).mem = s.mem := rfl
@[simp] theorem State.setRrec_ctrlHeld (s : State) (j : Nat) (v : Word) : (s.setRrec j v).ctrlHeld = s.ctrlHeld := rfl
@[simp] theorem State.setRrec_acc (s : State) (j : Nat) (v : Word) : (s.setRrec j v).acc = s.acc := rfl
@[simp] theorem State.setRrec_hung (s : State) (j : Nat) (v : Word) : (s.setRrec j v).hung = s.hung := rfl
@[simp] theorem State.setRrec_hw (s : State) (j : Nat) (v : Word) : (s.setRrec j v).hw = s.hw := rfl
@[simp] theorem State.setRrec_env (s : State) (j : Nat) (v : Word) : (s.setRrec j v).env = s.env := rfl
@[simp] theorem State.setRrec_trace (s : State) (j : Nat) (v : Word) : (s.setRrec j v).trace = s.trace := rfl

@[simp] theorem State.elapse_ph (s : State) : s.elapse.ph = s.ph := by unfold State.elapse; split <;> rfl
@[simp] theorem State.elapse_cfgd (s : State) : s.elapse.cfgd = s.cfgd := by unfold State.elapse; split <;> rfl
@[simp] theorem State.elapse_curv (s : State) : s.elapse.curv = s.curv := by unfold State.elapse; split <;> rfl
@[simp] theorem State.elapse_illcmd (s : State) : s.elapse.illcmd = s.illcmd := by unfold State.elapse; split <;> rfl
@[simp] theorem State.elapse_lockh (s : State) : s.elapse.lockh = s.lockh := by unfold State.elapse; split <;> rfl
@[simp] theorem State.elapse_kind (s : State) : s.elapse.kind = s.kind := by unfold State.elapse; split <;> rfl
@[simp] theorem State.elapse_fop (s : State) : s.elapse.fop = s.fop := by unfold State.elapse; split <;> rfl
@[simp] theorem State.elapse_lastOp (s : State) : s.elapse.lastOp = s.lastOp := by unfold State.elapse; split <;> rfl
@[simp] theorem State.elapse_errAddr (s : State) : s.elapse.errAddr = s.errAddr := by unfold State.elapse; split <;> rfl
@[simp] theorem State.elapse_firstLoc (s : State) : s.elapse.firstLoc = s.firstLoc := by unfold State.elapse; split <;> rfl
@[simp] theorem State.elapse_pageCount (s : State) : s.elapse.pageCount = s.pageCount := by unfold State.elapse; split <;> rfl
@[simp] theorem State.elapse_recBytes (s : State) : s.elapse.recBytes = s.recBytes := by unfold State.elapse; split <;> rfl
@[simp] theorem State.elapse_pageSize (s : State) : s.elapse.pageSize = s.pageSize := by unfold State.elapse; split <;> rfl
@[simp] theorem State.elapse_slotBytes (s : State) : s.elapse.slotBytes = s.slotBytes := by unfold State.elapse; split <;> rfl
@[simp] theorem State.elapse_entryCount (s : State) : s.elapse.entryCount = s.entryCount := by unfold State.elapse; split <;> rfl
@[simp] theorem State.elapse_curLoc (s : State) : s.elapse.curLoc = s.curLoc := by unfold State.elapse; split <;> rfl
@[simp] theorem State.elapse_curVer (s : State) : s.elapse.curVer = s.curVer := by unfold State.elapse; split <;> rfl
@[simp] theorem State.elapse_wrec (s : State) : s.elapse.wrec = s.wrec := by unfold State.elapse; split <;> rfl
@[simp] theorem State.elapse_rrec (s : State) : s.elapse.rrec = s.rrec := by unfold State.elapse; split <;> rfl
@[simp] theorem State.elapse_wk (s : State) : s.elapse.wk = s.wk := by unfold State.elapse; split <;> rfl
@[simp] theorem State.elapse_mem (s : State) : s.elapse.mem = s.mem := by unfold State.elapse; split <;> rfl
@[simp] theorem State.elapse_ctrlHeld (s : State) : s.elapse.ctrlHeld = s.ctrlHeld := by unfold State.elapse; split <;> rfl
@[simp] theorem State.elapse_acc (s : State) : s.elapse.acc = s.acc := by unfold State.elapse; split <;> rfl
@[simp] theorem State.elapse_hung (s : State) : s.elapse.hung = s.hung := by unfold State.elapse; split <;> rfl
@[simp] theorem State.elapse_hw (s : State) : s.elapse.hw = s.hw := by unfold State.elapse; split <;> rfl
@[simp] theorem State.elapse_trace (s : State) : s.elapse.trace = s.trace := by unfold State.elapse; split <;> rfl

@[simp] theorem State.programmed_ph (s : State) (addr v : Word) (ok : Bool) : (s.programmed addr v ok).ph = s.ph := by
  unfold State.programmed; split <;> rfl
@[simp] theorem State.programmed_cfgd (s : State) (addr v : Word) (ok : Bool) : (s.programmed addr v ok).cfgd = s.cfgd := by
  unfold State.programmed; split <;> rfl
@[simp] theorem State.programmed_curv (s : State) (addr v : Word) (ok : Bool) : (s.programmed addr v ok).curv = s.curv := by
  unfold State.programmed; split <;> rfl
@[simp] theorem State.programmed_illcmd (s : State) (addr v : Word) (ok : Bool) : (s.programmed addr v ok).illcmd = s.illcmd := by
  unfold State.programmed; split <;> rfl
@[simp] theorem State.programmed_lockh (s : State) (addr v : Word) (ok : Bool) : (s.programmed addr v ok).lockh = s.lockh := by
  unfold State.programmed; split <;> rfl
@[simp] theorem State.programmed_kind (s : State) (addr v : Word) (ok : Bool) : (s.programmed addr v ok).kind = s.kind := by
  unfold State.programmed; split <;> rfl
@[simp] theorem State.programmed_fop (s : State) (addr v : Word) (ok : Bool) : (s.programmed addr v ok).fop = s.fop := by
  unfold State.programmed; split <;> rfl
@[simp] theorem State.programmed_lastOp (s : State) (addr v : Word) (ok : Bool) : (s.programmed addr v ok).lastOp = s.lastOp := by
  unfold State.programmed; split <;> rfl
@[simp] theorem State.programmed_errAddr (s : State) (addr v : Word) (ok : Bool) : (s.programmed addr v ok).errAddr = s.errAddr := by
  unfold State.programmed; split <;> rfl
@[simp] theorem State.programmed_firstLoc (s : State) (addr v : Word) (ok : Bool) : (s.programmed addr v ok).firstLoc = s.firstLoc := by
  unfold State.programmed; split <;> rfl
@[simp] theorem State.programmed_pageCount (s : State) (addr v : Word) (ok : Bool) : (s.programmed addr v ok).pageCount = s.pageCount := by
  unfold State.programmed; split <;> rfl
@[simp] theorem State.programmed_recBytes (s : State) (addr v : Word) (ok : Bool) : (s.programmed addr v ok).recBytes = s.recBytes := by
  unfold State.programmed; split <;> rfl
@[simp] theorem State.programmed_pageSize (s : State) (addr v : Word) (ok : Bool) : (s.programmed addr v ok).pageSize = s.pageSize := by
  unfold State.programmed; split <;> rfl
@[simp] theorem State.programmed_slotBytes (s : State) (addr v : Word) (ok : Bool) : (s.programmed addr v ok).slotBytes = s.slotBytes := by
  unfold State.programmed; split <;> rfl
@[simp] theorem State.programmed_entryCount (s : State) (addr v : Word) (ok : Bool) : (s.programmed addr v ok).entryCount = s.entryCount := by
  unfold State.programmed; split <;> rfl
@[simp] theorem State.programmed_curLoc (s : State) (addr v : Word) (ok : Bool) : (s.programmed addr v ok).curLoc = s.curLoc := by
  unfold State.programmed; split <;> rfl
@[simp] theorem State.programmed_curVer (s : State) (addr v : Word) (ok : Bool) : (s.programmed addr v ok).curVer = s.curVer := by
  unfold State.programmed; split <;> rfl
@[simp] theorem State.programmed_wrec (s : State) (addr v : Word) (ok : Bool) : (s.programmed addr v ok).wrec = s.wrec := by
  unfold State.programmed; split <;> rfl
@[simp] theorem State.programmed_rrec (s : State) (addr v : Word) (ok : Bool) : (s.programmed addr v ok).rrec = s.rrec := by
  unfold State.programmed; split <;> rfl
@[simp] theorem State.programmed_wk (s : State) (addr v : Word) (ok : Bool) : (s.programmed addr v ok).wk = s.wk := by
  unfold State.programmed; split <;> rfl
@[simp] theorem State.programmed_ctrlHeld (s : State) (addr v : Word) (ok : Bool) : (s.programmed addr v ok).ctrlHeld = s.ctrlHeld := by
  unfold State.programmed; split <;> rfl
@[simp] theorem State.programmed_acc (s : State) (addr v : Word) (ok : Bool) : (s.programmed addr v ok).acc = s.acc := by
  unfold State.programmed; split <;> rfl
@[simp] theorem State.programmed_hung (s : State) (addr v : Word) (ok : Bool) : (s.programmed addr v ok).hung = s.hung := by
  unfold State.programmed; split <;> rfl
@[simp] theorem State.programmed_hw (s : State) (addr v : Word) (ok : Bool) : (s.programmed addr v ok).hw = s.hw := by
  unfold State.programmed; split <;> rfl
@[simp] theorem State.programmed_trace (s : State) (addr v : Word) (ok : Bool) : (s.programmed addr v ok).trace = s.trace := by
  unfold State.programmed; split <;> rfl

@[simp] theorem State.erased_ph (s : State) (addr : Word) (ok : Bool) : (s.erased addr ok).ph = s.ph := by
  unfold State.erased; split <;> rfl
@[simp] theorem State.erased_cfgd (s : State) (addr : Word) (ok : Bool) : (s.erased addr ok).cfgd = s.cfgd := by
  unfold State.erased; split <;> rfl
@[simp] theorem State.erased_curv (s : State) (addr : Word) (ok : Bool) : (s.erased addr ok).curv = s.curv := by
  unfold State.erased; split <;> rfl
@[simp] theorem State.erased_illcmd (s : State) (addr : Word) (ok : Bool) : (s.erased addr ok).illcmd = s.illcmd := by
  unfold State.erased; split <;> rfl
@[simp] theorem State.erased_lockh (s : State) (addr : Word) (ok : Bool) : (s.erased addr ok).lockh = s.lockh := by
  unfold State.erased; split <;> rfl
@[simp] theorem State.erased_kind (s : State) (addr : Word) (ok : Bool) : (s.erased addr ok).kind = s.kind := by
  unfold State.erased; split <;> rfl
@[simp] theorem State.erased_fop (s : State) (addr : Word) (ok : Bool) : (s.erased addr ok).fop = s.fop := by
  unfold State.erased; split <;> rfl
@[simp] theorem State.erased_lastOp (s : State) (addr : Word) (ok : Bool) : (s.erased addr ok).lastOp = s.lastOp := by
  unfold State.erased; split <;> rfl
@[simp] theorem State.erased_errAddr (s : State) (addr : Word) (ok : Bool) : (s.erased addr ok).errAddr = s.errAddr := by
  unfold State.erased; split <;> rfl
@[simp] theorem State.erased_firstLoc (s : State) (addr : Word) (ok : Bool) : (s.erased addr ok).firstLoc = s.firstLoc := by
  unfold State.erased; split <;> rfl
@[simp] theorem State.erased_pageCount (s : State) (addr : Word) (ok : Bool) : (s.erased addr ok).pageCount = s.pageCount := by
  unfold State.erased; split <;> rfl
@[simp] theorem State.erased_recBytes (s : State) (addr : Word) (ok : Bool) : (s.erased addr ok).recBytes = s.recBytes := by
  unfold State.erased; split <;> rfl
@[simp] theorem State.erased_pageSize (s : State) (addr : Word) (ok : Bool) : (s.erased addr ok).pageSize = s.pageSize := by
  unfold State.erased; split <;> rfl
@[simp] theorem State.erased_slotBytes (s : State) (addr : Word) (ok : Bool) : (s.erased addr ok).slotBytes = s.slotBytes := by
  unfold State.erased; split <;> rfl
@[simp] theorem State.erased_entryCount (s : State) (addr : Word) (ok : Bool) : (s.erased addr ok).entryCount = s.entryCount := by
  unfold State.erased; split <;> rfl
@[simp] theorem State.erased_curLoc (s : State) (addr : Word) (ok : Bool) : (s.erased addr ok).curLoc = s.curLoc := by
  unfold State.erased; split <;> rfl
@[simp] theorem State.erased_curVer (s : State) (addr : Word) (ok : Bool) : (s.erased addr ok).curVer = s.curVer := by
  unfold State.erased; split <;> rfl
@[simp] theorem State.erased_wrec (s : State) (addr : Word) (ok : Bool) : (s.erased addr ok).wrec = s.wrec := by
  unfold State.erased; split <;> rfl
@[simp] theorem State.erased_rrec (s : State) (addr : Word) (ok : Bool) : (s.erased addr ok).rrec = s.rrec := by
  unfold State.erased; split <;> rfl
@[simp] theorem State.erased_wk (s : State) (addr : Word) (ok : Bool) : (s.erased addr ok).wk = s.wk := by
  unfold State.erased; split <;> rfl
@[simp] theorem State.erased_ctrlHeld (s : State) (addr : Word) (ok : Bool) : (s.erased addr ok).ctrlHeld = s.ctrlHeld := by
  unfold State.erased; split <;> rfl
@[simp] theorem State.erased_acc (s : State) (addr : Word) (ok : Bool) : (s.erased addr ok).acc = s.acc := by
  unfold State.erased; split <;> rfl
@[simp] theorem State.erased_hung (s : State) (addr : Word) (ok : Bool) : (s.erased addr ok).hung = s.hung := by
  unfold State.erased; split <;> rfl
@[simp] theorem State.erased_hw (s : State) (addr : Word) (ok : Bool) : (s.erased addr ok).hw = s.hw := by
  unfold State.erased; split <;> rfl
@[simp] theorem State.erased_trace (s : State) (addr : Word) (ok : Bool) : (s.erased addr ok).trace = s.trace := by
  unfold State.erased; split <;> rfl

/-- With no move to come, a line's end changes nothing. -/
theorem State.elapse_of_no_moves (s : State) (h : s.env.moves = []) : s.elapse = s := by
  simp [State.elapse, h]

end Sys2Proof.Machine
end

