-- ==== Sys2Proof/Laws/Ops.lean ====
section
/-! SUPPORT. What each shared operation can do, said once: if a port operation answers a next state,
then which one; what it leaves in the flash; that it never refuses. -/

namespace Sys2Proof.Machine

open Sys2Proof

theorem aligned_iff (addr : Word) : aligned addr = true ↔ addr.toNat % 4 = 0 := by simp [aligned]

/-! The environment's answers, after one was used. -/

@[simp] theorem useReply_drawAt (s : State) : s.useReply.env.drawAt = s.env.drawAt := rfl

theorem useReply_replyAt (s : State) (k : Nat) : s.useReply.env.replyAt k = s.env.replyAt (k + 1) := by
  simp only [State.useReply_env, Env.replyAt, show s.env.replyIx + 1 + k = s.env.replyIx + (k + 1) by omega]

theorem useDraws_drawAt (s : State) (n k : Nat) : (s.useDraws n).env.drawAt k = s.env.drawAt (n + k) := by
  simp only [State.useDraws_env, Env.drawAt, Nat.add_assoc]

@[simp] theorem useDraws_replyAt (s : State) (n : Nat) : (s.useDraws n).env.replyAt = s.env.replyAt := rfl

/-! How a command ends. -/

theorem complete_eq (s : State) : complete s = .next (s.finish .ok .none 0) := rfl

theorem raise_eq (k : Kind) (o : FlashOp) (a : Word) (s : State) : raise k o a s = .next (s.finish k o a) := rfl

/-! Reads. -/

theorem memRead_of_aligned {addr : Word} {s : State} {k : Word → State → State} (h : addr.toNat % 4 = 0) :
    memRead addr s k = .next (k (s.mem.readWord addr) (s.emit (.memRead addr (s.mem.readWord addr)))) := by
  simp [memRead, (aligned_iff addr).2 h]

theorem memRead_next {addr : Word} {s t : State} {k : Word → State → State} (h : memRead addr s k = .next t) :
    addr.toNat % 4 = 0 ∧ t = k (s.mem.readWord addr) (s.emit (.memRead addr (s.mem.readWord addr))) := by
  unfold memRead at h
  split at h
  · exact ⟨(aligned_iff addr).1 ‹_›, (Host.Outcome.next.inj h).symm⟩
  · cases h

theorem crcBlock_of_aligned {addr : Word} {n : Nat} {s : State} {k : Word → State → State}
    (h : addr.toNat % 4 = 0) :
    crcBlock addr n s k = .next (k (crc s.hw.crc (s.mem.readWords addr n))
      ((s.emit (.crcBlock addr n (crc s.hw.crc (s.mem.readWords addr n)))).accUnspecified)) := by
  simp [crcBlock, (aligned_iff addr).2 h]

theorem crcBlock_next {addr : Word} {n : Nat} {s t : State} {k : Word → State → State}
    (h : crcBlock addr n s k = .next t) :
    addr.toNat % 4 = 0 ∧ t = k (crc s.hw.crc (s.mem.readWords addr n))
      ((s.emit (.crcBlock addr n (crc s.hw.crc (s.mem.readWords addr n)))).accUnspecified) := by
  unfold crcBlock at h
  split at h
  · exact ⟨(aligned_iff addr).1 ‹_›, (Host.Outcome.next.inj h).symm⟩
  · cases h

/-! Programs. -/

theorem memWrite_of_aligned {addr v : Word} {p q : Phase} {s : State} (h : addr.toNat % 4 = 0) :
    memWrite addr v p q s = match s.env.replyAt 0 with
      | .hangs => .next s.useReply.hang
      | .returns ok => .next (((s.useReply.programmed addr v ok).emit (.memWrite addr v ok)).goto
          (if ok then p else q)) := by
  refine (if_pos ((aligned_iff addr).2 h)).trans ?_
  cases s.env.replyAt 0 <;> rfl

theorem memWrite_next {addr v : Word} {p q : Phase} {s t : State} (h : memWrite addr v p q s = .next t) :
    addr.toNat % 4 = 0 ∧
      ((s.env.replyAt 0 = .hangs ∧ t = s.useReply.hang) ∨
        ∃ ok, s.env.replyAt 0 = .returns ok ∧
          t = ((s.useReply.programmed addr v ok).emit (.memWrite addr v ok)).goto (if ok then p else q)) := by
  by_cases ha : addr.toNat % 4 = 0
  · rw [memWrite_of_aligned ha] at h
    refine ⟨ha, ?_⟩
    split at h
    · exact .inl ⟨‹_›, (Host.Outcome.next.inj h).symm⟩
    · exact .inr ⟨_, ‹_›, (Host.Outcome.next.inj h).symm⟩
  · have : aligned addr = false := by simpa [aligned] using ha
    simp [memWrite, this] at h

/-- A program leaves its value in a blank word, and a draw in any other case. -/
theorem programmed_mem (s : State) (addr v : Word) (ok : Bool) :
    (s.programmed addr v ok).mem =
      s.mem.writeWord addr (if ok && s.blank addr then v else s.env.drawAt 0) := by
  unfold State.programmed
  split <;> simp [*]

theorem programmed_mem_wf {s : State} (h : s.mem.wf = true) (addr v : Word) (ok : Bool) :
    (s.programmed addr v ok).mem.wf = true := by
  rw [programmed_mem]
  exact writeWord_wf h _ _

/-- A program changes no byte outside its word. -/
theorem programmed_readByte {s : State} (h : s.mem.wf = true) {addr : Word} (ha : addr.toNat % 4 = 0)
    (v : Word) (ok : Bool) {b : Nat} (hb : ¬ (addr.toNat ≤ b ∧ b < addr.toNat + 4)) :
    (s.programmed addr v ok).mem.readByte b = s.mem.readByte b := by
  rw [programmed_mem, readByte_writeWord h ha, if_neg hb]

/-! Page erases. -/

theorem isPage_iff (s : State) (addr : Word) : s.isPage addr = true ↔
    4 ≤ s.hw.pageSize.toNat ∧ s.hw.pageSize.toNat % 4 = 0 ∧ addr.toNat % s.hw.pageSize.toNat = 0 := by
  simp [State.isPage, and_assoc]

theorem flashErase_of_page {addr : Word} {f g : State → State} {s : State} (h : s.isPage addr = true) :
    flashErase addr f g s = match s.env.replyAt 0 with
      | .hangs => .next s.useReply.hang
      | .returns ok => .next ((if ok then f else g)
          ((s.useReply.erased addr ok).emit (.flashErase addr ok))) := by
  refine (if_pos h).trans ?_
  cases s.env.replyAt 0 <;> rfl

theorem flashErase_next {addr : Word} {f g : State → State} {s t : State}
    (h : flashErase addr f g s = .next t) :
    s.isPage addr = true ∧
      ((s.env.replyAt 0 = .hangs ∧ t = s.useReply.hang) ∨
        ∃ ok, s.env.replyAt 0 = .returns ok ∧
          t = (if ok then f else g) ((s.useReply.erased addr ok).emit (.flashErase addr ok))) := by
  by_cases hp : s.isPage addr = true
  · rw [flashErase_of_page hp] at h
    refine ⟨hp, ?_⟩
    split at h
    · exact .inl ⟨‹_›, (Host.Outcome.next.inj h).symm⟩
    · exact .inr ⟨_, ‹_›, (Host.Outcome.next.inj h).symm⟩
  · simp [flashErase, hp] at h

/-- An erase fills its page with the erased word, or with draws when it fails. -/
theorem erased_mem (s : State) (addr : Word) (ok : Bool) :
    (s.erased addr ok).mem =
      s.mem.fillWords addr (if ok then fun _ => s.hw.erasedWord else s.env.drawAt) s.deviceWords := by
  unfold State.erased
  split <;> simp [*]

theorem erased_mem_wf {s : State} (h : s.mem.wf = true) (addr : Word) (ok : Bool) :
    (s.erased addr ok).mem.wf = true := by
  rw [erased_mem]
  exact fillWords_wf h _ _ _

/-! The lock. -/

theorem lockAcquire_next {p : Phase} {s t : State} (h : lockAcquire p s = .next t) :
    (s.env.replyAt 0 = .hangs ∧ t = s.useReply.hang) ∨
      ∃ ok, s.env.replyAt 0 = .returns ok ∧ t = ((s.useReply.setLock true).emit .lockAcquire).goto p := by
  unfold lockAcquire at h
  split at h
  · exact .inl ⟨‹_›, (Host.Outcome.next.inj h).symm⟩
  · exact .inr ⟨_, ‹_›, (Host.Outcome.next.inj h).symm⟩

/-! The CRC. -/

theorem crc_append (e : CrcEngine) (ws : List Word) (w : Word) :
    crc e (ws ++ [w]) = crcStep e (crc e ws) w := by simp [crc]

end Sys2Proof.Machine
end

