-- ==== Sys2Proof/Laws/Run.lean ====
section
/-! SUPPORT. The sequencer: running a number of lines, cutting a run in two, carrying a property along
a run, and that no line refuses. -/

namespace Sys2Proof.Machine

open Sys2Proof

theorem run_zero (s : State) : run 0 s = .next s := rfl

/-- A waiting sequencer executes nothing. -/
theorem run_of_waiting {s : State} (h : s.waiting = true) (n : Nat) : run n s = .next s := by
  cases n <;> simp [run, h]

/-- One line, then the rest. -/
theorem run_of_tick {s t : State} (h : s.waiting = false) (ht : tick s = .next t) (n : Nat) :
    run (n + 1) s = run n t.elapse := by
  simp [run, h, ht]

/-- A run is one run after another. -/
theorem run_add (m n : Nat) (s : State) :
    run (m + n) s = match run m s with
      | .next t => run n t
      | .fault f => .fault f
      | .refused r => .refused r := by
  induction m generalizing s with
  | zero => simp [run]
  | succ m ih =>
    rw [Nat.add_right_comm]
    by_cases hw : s.waiting = true
    · simp [run_of_waiting hw]
    · simp only [run, Bool.not_eq_true] at hw ⊢
      simp only [hw, Bool.false_eq_true, if_false]
      cases tick s with
      | next t => exact ih t.elapse
      | fault f => rfl
      | refused r => rfl

/-- A run that has come to wait is the run of any greater number of lines. -/
theorem run_of_le {m n : Nat} {s t : State} (hmn : m ≤ n) (h : run m s = .next t) (hw : t.waiting = true) :
    run n s = .next t := by
  obtain ⟨k, rfl⟩ := Nat.exists_eq_add_of_le hmn
  rw [run_add, h]
  exact run_of_waiting hw k

/-- A property every line (and the moves' coming nearer) keeps holds after a run. -/
theorem run_keeps {P : State → Prop} (htick : ∀ s t, P s → s.waiting = false → tick s = .next t → P t.elapse)
    {n : Nat} {s t : State} (hs : P s) (h : run n s = .next t) : P t := by
  induction n generalizing s with
  | zero => exact Host.Outcome.next.inj h ▸ hs
  | succ n ih =>
    by_cases hw : s.waiting = true
    · rw [run_of_waiting hw] at h
      exact Host.Outcome.next.inj h ▸ hs
    · simp only [Bool.not_eq_true] at hw
      cases ht : tick s with
      | next u =>
        rw [run_of_tick hw ht] at h
        exact ih (htick s u hs hw ht) h
      | fault f => simp [run, hw, ht] at h
      | refused r => simp [run, hw, ht] at h

/-! No port operation refuses. -/

theorem memRead_ne_refused (addr : Word) (s : State) (k : Word → State → State) (r : Refusal) :
    memRead addr s k ≠ .refused r := by unfold memRead; split <;> simp

theorem crcBlock_ne_refused (addr : Word) (n : Nat) (s : State) (k : Word → State → State) (r : Refusal) :
    crcBlock addr n s k ≠ .refused r := by unfold crcBlock; split <;> simp

theorem memWrite_ne_refused (addr v : Word) (p q : Phase) (s : State) (r : Refusal) :
    memWrite addr v p q s ≠ .refused r := by
  unfold memWrite
  split
  · split <;> simp
  · simp

theorem flashErase_ne_refused (addr : Word) (f g : State → State) (s : State) (r : Refusal) :
    flashErase addr f g s ≠ .refused r := by
  unfold flashErase
  split
  · split <;> simp
  · simp

theorem lockAcquire_ne_refused (p : Phase) (s : State) (r : Refusal) : lockAcquire p s ≠ .refused r := by
  unfold lockAcquire
  split <;> simp

/-- No line of a command refuses. -/
theorem tick_ne_refused (s : State) (r : Refusal) : tick s ≠ .refused r := by
  unfold tick
  split
  · simp
  · rename_i l _
    cases l <;> simp only [configureLine, complete, raise] <;> (try split) <;> simp
  · rename_i l _
    cases l <;> simp [scanLine, memRead_ne_refused, crcBlock_ne_refused]
  · rename_i l _
    cases l <;> simp only [readLine, complete, raise] <;> (try split) <;> (try split) <;>
      simp [memRead_ne_refused]
  · rename_i l _
    cases l <;> simp only [writeLine, complete, raise, programNext] <;> (try split) <;>
      simp [memWrite_ne_refused, flashErase_ne_refused, lockAcquire_ne_refused]
  · rename_i l _
    cases l <;> simp [eraseLine, complete, raise, flashErase_ne_refused, lockAcquire_ne_refused]
  · rename_i l _
    cases l <;> simp [resetLine, complete]

end Sys2Proof.Machine
end

