-- ==== Sys2Proof/Laws/Course.lean ====
section
/-! SUPPORT. A command's course: how a property is carried along it, and what a power loss does to it. -/

namespace Sys2Proof.Machine

open Sys2Proof

@[simp] theorem course_zero (s t : State) (i : Instr) : s.Course i 0 t ↔ exec i s = .next t := Iff.rfl

@[simp] theorem course_succ (s t : State) (i : Instr) (n : Nat) : s.Course i (n + 1) t ↔
    ∃ u, s.Course i n u ∧ u.ph ≠ .idle ∧ u.losesPower = false ∧ step u = .next t := Iff.rfl

/-- What holds after `exec`, and is kept by every step of a busy block that does not lose power, holds
all along the course. -/
theorem course_keeps {s t : State} {i : Instr} {n : Nat} {P : State → Prop}
    (hexec : ∀ u, exec i s = .next u → P u)
    (hstep : ∀ u v, P u → u.ph ≠ .idle → u.losesPower = false → step u = .next v → P v)
    (h : s.Course i n t) : P t := by
  induction n generalizing t with
  | zero => exact hexec t h
  | succ n ih =>
    obtain ⟨u, hu, hbusy, hpower, hstep'⟩ := h
    exact hstep u t (ih hu) hbusy hpower hstep'

/-- A power loss that lands: the step is `powerLoss` of the state without that move. -/
theorem step_of_losesPower {s : State} (h : s.losesPower = true) :
    ∃ ms, step s = .next (State.powerLoss { s with env := { s.env with moves := ms } }) := by
  simp only [State.losesPower, Bool.and_eq_true, beq_iff_eq] at h
  obtain ⟨hw, hm⟩ := h
  cases hmv : s.env.moves with
  | nil => simp [hmv] at hm
  | cons m ms =>
    simp only [hmv, List.head?_cons, Option.map_some, Option.some.injEq] at hm
    exact ⟨ms, by simp [step, stepMachine, hw, hmv, land, hm]⟩

/-- The moves still to come have no part in what power loss leaves in the flash. -/
@[simp] theorem powerLoss_mem_moves (s : State) (ms : List Timed) :
    (State.powerLoss { s with env := { s.env with moves := ms } }).mem = s.powerLoss.mem := by
  simp only [State.powerLoss, State.cutFlash]
  split <;> (try split) <;> rfl

/-- To keep the flash, also through a power loss, is a matter of `mem` before and after it. -/
theorem keepsFlash_of_powerLoss {s t : State} {p : Nat → Prop}
    (hnow : ∀ a, p a → t.mem.readByte a = s.mem.readByte a)
    (hlost : ∀ a, p a → t.powerLoss.mem.readByte a = s.mem.readByte a) : s.keepsFlash t p := by
  refine ⟨hnow, fun u hp hu a ha => ?_⟩
  obtain ⟨ms, hstep⟩ := step_of_losesPower hp
  cases hstep.symm.trans hu
  rw [powerLoss_mem_moves]
  exact hlost a ha

end Sys2Proof.Machine
end

