-- ==== Sys2Proof/Laws/PerInstr.lean ====
section
/-! SUPPORT. The statements about every command as syntax, proved per command. -/

namespace Sys2Proof.Laws.Encoding

open Sys2Proof

/-- A command is a legal command word of three bits, and its word decodes to it (30_encoding.md R74). -/
def Statement (i : Instr) : Prop :=
  i.wf = true ∧ encode i = i.opc.zeroExtend 32 ∧ decodeTableWord 32 (encode i).toNat = some i

theorem configure : Statement .configure := ⟨by decide, by decide, by decide⟩
theorem read : Statement .read := ⟨by decide, by decide, by decide⟩
theorem write : Statement .write := ⟨by decide, by decide, by decide⟩
theorem erase : Statement .erase := ⟨by decide, by decide, by decide⟩
theorem reset : Statement .reset := ⟨by decide, by decide, by decide⟩

end Sys2Proof.Laws.Encoding
end

