-- ==== Sys2Proof/Tests/Slice0.lean ====
section
/-! SUPPORT. The model's own tests: the spec's encodings and vectors (95_test_vectors.md), the refusal
of each ill-formed term, and for each obligation with hypotheses a state that meets them. -/

namespace Sys2Proof.Tests

open Sys2Proof Sys2Proof.Machine

set_option Elab.async false

/-! Helpers. -/

/-- The result is a next state with the given property. -/
def onNext (r : Result) (p : State → Bool) : Bool :=
  match r with
  | .next t => p t
  | .fault _ => false
  | .refused _ => false

theorem of_onNext {r : Result} {p : State → Bool} (h : onNext r p = true) : ∃ t, r = .next t ∧ p t = true := by
  cases r with
  | next t => exact ⟨t, rfl, h⟩
  | fault f => cases h
  | refused f => cases h

/-- The hardware of 95_test_vectors.md section 1 with geometry S's page size. -/
def hwS : Params := { pageSize := 32, erasedWord := 0xFFFFFFFF, crc := .g1, kmax := 8 }

/-- Power has just come back on that hardware: every answer `ok`, the draws of 95_test_vectors.md section 4. -/
def fresh : State :=
  { State.reset with
    hw := hwS, wrec := List.replicate 8 0, rrec := List.replicate 8 0,
    env := { Env.start with
      replies := List.replicate 40 (.returns true), draws := (List.range 12).map fun k => 0x0F0F0F00 + BitVec.ofNat 32 k } }

/-- Geometry S configured (95_test_vectors.md section 3.3), the Region blank. -/
def stateS : State :=
  { fresh with
    cfgd := true, firstLoc := 0x1000, pageCount := 2, recBytes := 4, pageSize := 32, slotBytes := 16,
    entryCount := 4 }

/-- The words `ws` stored from `addr` on. -/
def store (m : Memory) (addr : Word) : List Word → Memory
  | [] => m
  | w :: ws => store (m.writeWord addr w) (addr + 4) ws

/-- The flash of T-S2. -/
def flashS2 : Memory :=
  store (store [] 0x1000 [0xBE000005, 0x55555555, 0x0F0F0F04, 0xFDBABA39]) 0x1020
    [0xBE000003, 0x33333333, 0x0F0F0F02, 0x50C08DDD, 0xBE000004, 0x44444444, 0x0F0F0F03, 0x29170A48]

/-- Geometry S after T-W1: slot 0 holds version 1, the Cursor names it, `WREC[0] = 0x22222222`. -/
def afterW1 : State :=
  { stateS with
    mem := store [] 0x1000 [0xBE000001, 0x11111111, 0x0F0F0F00, 0xC8566BEC],
    curv := true, curLoc := 0x1000, curVer := 1, wrec := 0x22222222 :: List.replicate 7 0 }

/-- The answers of the environment replaced. -/
def answering (s : State) (rs : List Reply) : State := { s with env := { s.env with replies := rs } }

/-- The moves to come replaced. -/
def moving (s : State) (ms : List Timed) : State := { s with env := { s.env with moves := ms } }

/-- A state at a line of a command. -/
def atLine (s : State) (p : Phase) (b : Bool) : State := { s with ph := p, lockh := b, ctrlHeld := b }

/-! Ill-formed terms are refused, one for each check. -/

theorem test_wf_zero_bits : (CmdWord.mk 1 2).zeroOk = false ∧ (CmdWord.mk 1 2).wf = false := by decide
theorem test_wf_opcode : (CmdWord.mk 0 6).opcOk = false ∧ (CmdWord.mk 0 0).wf = false := by decide
theorem test_wf_commands : Instr.wf .configure = true ∧ Instr.wf .reset = true := by decide

/-- The geometry of D0 §8. -/
def geomD0 : Geometry := ⟨0x08080000, 2, 12, 1024, 8⟩

theorem test_geomOK_example : geomD0.ok = true := by decide
theorem test_geomOK_p1 : ({ geomD0 with firstLoc := 0x08080004 } : Geometry).p1 = false := by decide
theorem test_geomOK_p2 : ({ geomD0 with pageCount := 0 } : Geometry).p2 = false := by decide
theorem test_geomOK_p3 : ({ geomD0 with pageSize := 1000 } : Geometry).p3 = false := by decide
theorem test_geomOK_p3_small : ({ geomD0 with pageSize := 4 } : Geometry).p3 = false := by decide
theorem test_geomOK_p4 : ({ geomD0 with recBytes := 0x7FFFFFFC } : Geometry).p4 = false := by decide
theorem test_geomOK_p5 : ({ geomD0 with recBytes := 1020 } : Geometry).p5 = false := by decide
theorem test_geomOK_p6 : ({ geomD0 with firstLoc := 0xFFFFFC00 } : Geometry).p6 = false := by decide
theorem test_geomOK_p6_product : ({ geomD0 with pageCount := 0x400000 } : Geometry).p6 = false := by decide
theorem test_geomOK_p7 : ({ geomD0 with recBytes := 36 } : Geometry).p7 = false := by decide

/-! Encodings: words written out bit by bit from 30_encoding.md R74 (bits 2:0 the opcode, 31:3 zero). -/

theorem test_decode_configure :
    decode 0b00000000000000000000000000000001 = .ok .configure ∧ decodeTableWord 32 1 = some .configure := by decide
theorem test_decode_read :
    decode 0b00000000000000000000000000000010 = .ok .read ∧ decodeTableWord 32 2 = some .read := by decide
theorem test_decode_write :
    decode 0b00000000000000000000000000000011 = .ok .write ∧ decodeTableWord 32 3 = some .write := by decide
theorem test_decode_erase :
    decode 0b00000000000000000000000000000100 = .ok .erase ∧ decodeTableWord 32 4 = some .erase := by decide
theorem test_decode_reset :
    decode 0b00000000000000000000000000000101 = .ok .reset ∧ decodeTableWord 32 5 = some .reset := by decide
/-- T-X2, T-X3. -/
theorem test_decode_reserved :
    decode 0 = .error (.reservedOpcode 0) ∧ decode 6 = .error (.reservedOpcode 6) ∧
      decode 7 = .error (.reservedOpcode 7) ∧ decode 0x0000000B = .error .reservedBits ∧
      decode 0x80000002 = .error .reservedBits := by decide
theorem test_encode : encode .configure = 1 ∧ encode .write = 3 ∧ encode .reset = 5 := by decide
/-- T-G5. -/
theorem test_header :
    header 1 = 0xBE000001 ∧ header 65 = 0xBE000041 ∧ header 0xFFFFFF = 0xBEFFFFFF ∧ header 0 = 0xBE000000 ∧
      headerMagic 0xBE00002A = 0xBE ∧ headerVersion 0xBE00002A = 42 ∧ headerMagic 0xBF000001 = 0xBF := by decide

/-! The geometry and the CRC of the vectors. -/

/-- T-G1. -/
theorem test_nextPow2 :
    [0, 1, 2, 3, 5, 8, 9, 16, 17, 20, 33, 1000, 1025, 0x7FFFFFFF, 0x80000000, 0x80000001, 0xFFFFFFFF].map nextPow2 =
      [0, 1, 2, 4, 8, 8, 16, 16, 32, 32, 64, 1024, 2048, 0x80000000, 0x80000000, 0, 0] := by decide
/-- T-G2: `slotBytes`, and `entryCount` for two pages of 1024. -/
theorem test_slot_sizing :
    [0, 4, 8, 12, 24, 28, 56, 120, 1016].map (fun r => (slotBytesOf r, entryCountOf 1024 2 (slotBytesOf r))) =
      [(8, 256), (16, 128), (16, 128), (32, 64), (32, 64), (64, 32), (64, 32), (128, 16), (1024, 2)] := by decide
/-- T-G3, with the D0 §8 geometry. -/
def stateD0 : State :=
  { fresh with
    cfgd := true, hw := { hwS with pageSize := 1024 }, firstLoc := 0x08080000, pageCount := 2, recBytes := 12,
    pageSize := 1024, slotBytes := 32, entryCount := 64 }
theorem test_addresses :
    stateD0.slotAddr 63 = 0x080807E0 ∧ stateD0.nextLoc 0x080803E0 = 0x08080400 ∧
      stateD0.nextLoc 0x080807E0 = 0x08080000 ∧ stateD0.pageStart 0x08080400 = true ∧
      stateD0.pageStart 0x08080020 = false ∧ stateD0.pageAddr 1 = 0x08080400 ∧ stateD0.fillerCount = 3 := by decide
/-- T-G4: a Region that ends at the top of the address space. -/
theorem test_nextLoc_at_the_top :
    ({ stateD0 with firstLoc := 0xFFFFF800 } : State).nextLoc 0xFFFFFFE0 = 0xFFFFF800 := by decide
/-- The reference values of 95_test_vectors.md section 1. -/
theorem test_crc :
    crc .g1 [] = 0xFFFFFFFF ∧ crc .g1 [0] = 0xC704DD7B ∧ crc .g1 [0x31323334, 0x35363738] = 0x49E3C2FB ∧
      crc .g1 [0xBE000001] = 0x41DB6A55 := by decide +kernel
/-- 20_memory.md R43: byte `b` of a record is bits `8*(b mod 4)+7 : 8*(b mod 4)` of word `b/4`. -/
theorem test_record_bytes :
    recordByte [0x11223344, 0x55667788] 0 = 0x44 ∧ recordByte [0x11223344, 0x55667788] 6 = 0x66 := by decide

/-! The commands, on the vectors. -/

/-- T-C1, without a byte order of its own: the latched registers, `STATUS` 0x02, `RESULT` 0x10. -/
theorem test_configure_T_C1 :
    onNext (exec .configure { fresh with hw := { hwS with pageSize := 1024 }, firstLoc := 0x08080000, pageCount := 2, recBytes := 12 })
      (fun t => t.pageSize == 1024 && t.slotBytes == 32 && t.entryCount == 64 && t.statusWord == 0x02 && t.resultWord == 0x10
        && t.trace == [.flashPageSize 1024]) = true := by decide +kernel
/-- T-C2. -/
theorem test_configure_T_C2 :
    onNext (exec .configure { fresh with recBytes := 13 })
      (fun t => t.statusWord == 0 && t.resultWord == 0x11 && t.errAddr == 0 && t.slotBytes == 0 && t.trace == []) = true := by
  decide +kernel
/-- T-S2. -/
theorem test_read_T_S2 :
    onNext (exec .read { stateS with mem := flashS2 })
      (fun t => t.rrec.getD 0 0 == 0x55555555 && t.curLoc == 0x1000 && t.curVer == 5 && t.statusWord == 0x06
        && t.resultWord == 0x20 && t.trace == [.memRead 0x1000 0xBE000005, .crcBlock 0x1000 3 0xFDBABA39,
          .memRead 0x100C 0xFDBABA39, .memRead 0x1010 0xFFFFFFFF, .memRead 0x1020 0xBE000003,
          .memRead 0x1030 0xBE000004, .memRead 0x1004 0x55555555]) = true := by decide +kernel
/-- T-S4: version 0, a wrong trailer, a tie. -/
theorem test_read_T_S4 :
    onNext (exec .read { stateS with mem := store [] 0x1000 [
        0xBE000000, 0xAA, 0, 0x8C9F3C73, 0xBE000007, 0x77, 0, 0x7B82B8C9,
        0xBE000005, 0xAA, 0, 0xBBDE1954, 0xBE000005, 0xBB, 0, 0x710170D5] })
      (fun t => t.rrec.getD 0 0 == 0xAA && t.curLoc == 0x1020 && t.curVer == 5) = true := by decide +kernel
/-- T-W1. -/
theorem test_write_T_W1 :
    onNext (exec .write { stateS with wrec := 0x11111111 :: List.replicate 7 0 })
      (fun t => t.resultWord == 0x30 && t.statusWord == 0x06 && t.curLoc == 0x1000 && t.curVer == 1
        && t.mem.readWords 0x1000 4 == [0xBE000001, 0x11111111, 0x0F0F0F00, 0xC8566BEC]
        && t.trace.drop 4 == [.flashErase 0x1000 true, .lockAcquire, .crcReset, .memWrite 0x1000 0xBE000001 true,
          .crcAcc 0xBE000001, .memWrite 0x1004 0x11111111 true, .crcAcc 0x11111111, .rngNext 0x0F0F0F00,
          .memWrite 0x1008 0x0F0F0F00 true, .crcAcc 0x0F0F0F00, .crcValue 0xC8566BEC,
          .memWrite 0x100C 0xC8566BEC true, .lockRelease]) = true := by decide +kernel
/-- T-W5: the second program of the command fails; the word then holds the draw. -/
theorem test_write_T_W5 :
    onNext (exec .write (answering afterW1 [.returns true, .returns true, .returns false]))
      (fun t => t.resultWord == 0x3B && t.errAddr == 0x1014 && t.statusWord == 0x06 && t.curLoc == 0x1000 && t.curVer == 1
        && t.mem.readWords 0x1010 4 == [0xBE000002, 0x0F0F0F00, 0xFFFFFFFF, 0xFFFFFFFF]
        && t.trace == [.lockAcquire, .crcReset, .memWrite 0x1010 0xBE000002 true, .crcAcc 0xBE000002,
          .memWrite 0x1014 0x22222222 false, .lockRelease]) = true := by decide +kernel
/-- T-E1. -/
theorem test_erase_T_E1 :
    onNext (exec .erase afterW1) (fun t => t.resultWord == 0x40 && t.statusWord == 0x02 && t.mem == []
      && t.trace == [.lockAcquire, .flashErase 0x1000 true, .flashErase 0x1020 true, .lockRelease]) = true := by
  decide +kernel
/-- T-E2. -/
theorem test_erase_T_E2 :
    onNext (exec .erase (answering afterW1 [.returns true, .returns true, .returns false]))
      (fun t => t.resultWord == 0x47 && t.errAddr == 0x1020 && t.curv == false && t.lockh == false
        && t.mem.readWord 0x1000 == 0xFFFFFFFF && t.mem.readWord 0x1020 == 0x0F0F0F00) = true := by decide +kernel
/-- T-E3. -/
theorem test_reset_T_E3 :
    onNext (exec .reset afterW1) (fun t => t.resultWord == 0x50 && t.statusWord == 0x02 && t.trace == []) = true := by
  decide +kernel
/-- T-X1: a command before CONFIGURE starts nothing; `STATUS` 0x08. -/
theorem test_reset_T_X1 : onNext (exec .reset fresh) (fun t => t.statusWord == 0x08 && t.resultWord == 0) = true := by
  decide +kernel

/-! Moves in the middle of a command, and power loss. -/

/-- T-X4: READ written while WRITE runs is ignored with `ILLCMD`. -/
theorem test_command_while_busy :
    onNext (step ((atLine stateS (.write .w4) false).withFetchWord 32 2))
      (fun t => t.ph == .write .w4 && t.illcmd && t.trace == []) = true := by decide +kernel
/-- T-P1: power is lost after two words of T-W2 were fed (11 lines into the command). -/
theorem test_power_lost_between_events :
    onNext (exec .write (moving afterW1 [⟨11, .powerLoss⟩])) (fun t => t.busy && t.statusWord == 0x17
      && onNext (step t) (fun u => u.statusWord == 0 && u.resultWord == 0
        && u.mem.readWords 0x1010 4 == [0xBE000002, 0x22222222, 0xFFFFFFFF, 0xFFFFFFFF])) = true := by decide +kernel
/-- T-P2: power is lost in the trailer's program, which then holds the draw. -/
theorem test_power_lost_in_a_program :
    onNext (exec .write (moving (answering afterW1 [.returns true, .returns true, .returns true,
        .returns true, .hangs]) [⟨60, .powerLoss⟩])) (fun t => t.hung && t.ph == .write .w8program
      && onNext (step t) (fun u => u.mem.readWords 0x1010 4 == [0xBE000002, 0x22222222, 0x0F0F0F00, 0x0F0F0F01])) = true := by
  decide +kernel
/-- The word of the opcode table runs as the first instruction after reset. -/
theorem test_first_instruction :
    onNext (step (State.reset.withFetchWord 32 1)) (fun t => t.statusWord == 0x02 && t.resultWord == 0x10) = true := by
  decide

end Sys2Proof.Tests
end

