-- ==== Sys2Proof/Tests/Witness.lean ====
section
/-! SUPPORT. For each obligation with hypotheses, a concrete state and operands that meet all of them
together, clause by clause, at the boundary values of their ranges. -/

namespace Sys2Proof.Tests

open Sys2Proof Sys2Proof.Machine

set_option Elab.async false

/-! States the witnesses share. -/

/-- `stateS` with its last call about to be answered by nothing at all. -/
def hangingAt (p : Phase) (held : Bool) (w : Work) : State :=
  { answering (atLine stateS p held) [.hangs] with wk := w }

/-- `stateS` stuck at a line. -/
def stuckAt (p : Phase) (held : Bool) (w : Work) : State := { hangingAt p held w with hung := true }

/-- Working registers with `a` and `NLOC` at slot 0. -/
def workSlot0 : Work := { Work.zero with a := 0x1000, nloc := 0x1000 }

/-- The T-S2 flash, configured, the Cursor unknown: slot 0 of version 5 is current. -/
def stateS2 : State := { stateS with mem := flashS2 }

/-- Before the fourth write of P1: the Cursor names slot 2, the next slot is the last one. -/
def atLastPage : State := { stateS2 with curv := true, curLoc := 0x1010, curVer := 4 }

/-- The machine `n` steps into a command's course; a fault where the course is over before. -/
def courseOf (s : State) (i : Instr) : Nat → Result
  | 0 => exec i s
  | n + 1 =>
    match courseOf s i n with
    | .next u => if u.busy && !u.losesPower then step u else .fault .notAPage
    | r => r

theorem course_of_courseOf {s t : State} {i : Instr} {n : Nat} (h : courseOf s i n = .next t) :
    s.Course i n t := by
  induction n generalizing t with
  | zero => exact h
  | succ n ih =>
    simp only [courseOf] at h
    split at h
    · rename_i u hu
      split at h
      · rename_i hb
        simp only [State.busy, Bool.and_eq_true, bne_iff_ne, ne_eq, Bool.not_eq_true'] at hb
        exact ⟨u, ih hu, hb.1, hb.2, h⟩
      · cases h
    · rename_i hr
      exact absurd h (hr t)

/-- A course reaches a state with the given property. -/
theorem course_meets {s : State} {i : Instr} {n : Nat} {p : State → Bool} (h : onNext (courseOf s i n) p = true) :
    ∃ t, s.Course i n t ∧ p t = true :=
  (of_onNext h).imp fun _ ht => ⟨course_of_courseOf ht.1, ht.2⟩

/-- A host that polls `STATUS` after nine lines and writes `WREC[0]` eleven lines later, and a power loss
after that. -/
def polls : List Timed := [⟨9, .hostRead 4⟩, ⟨11, .hostWrite 0x1000 7⟩, ⟨1, .powerLoss⟩]

/-! Decoding and steps. -/

theorem meets_StepRunsTheDecodedCommand :
    decode 3 = .ok .write ∧ (moving stateS [⟨0, .hostWrite 0 3⟩]).waiting = true := by decide +kernel
theorem meets_StepRunsLinesOrLandsAMove :
    (atLine stateS (.write .w1) false).waiting = false ∧ (moving stateS [⟨5, .powerLoss⟩]).waiting = true ∧
      (moving (atLine stateS (.write .w1) false) [⟨0, .hostRead 4⟩]).waiting = true ∧
      stateS.env.moves = [] ∧ stateS.ph = .idle ∧ (0x1FFD : Word).toNat % 4 ≠ 0 ∧
      (atLine stateS (.write .w1) false).ph ≠ .idle ∧ (0xFFFFFFFC : Word).toNat % 4 = 0 ∧
      stateS2.ph = .idle ∧ stateS2.mem.wf = true := by decide +kernel

/-- Every line that may hang is met inside the invariant, by a hang. -/
theorem meets_CallThatNeverReturnsStopsTheBlock :
    ([hangingAt (.write .w3erase) false workSlot0, hangingAt (.write .w4) false workSlot0,
      hangingAt (.write .w5program) true workSlot0,
      hangingAt (.write .w6program) true { workSlot0 with a := 0x1004, i := 0 },
      hangingAt (.write .w7program) true { workSlot0 with a := 0x1008, i := 0 },
      hangingAt (.write .w8program) true { workSlot0 with a := 0x100C },
      hangingAt (.erase .e2) false Work.zero, hangingAt (.erase .e3erase) true { Work.zero with i := 1 }].all
        fun s => s.inv && s.ph.mayHang && s.env.replyAt 0 == .hangs) = true ∧
    (stuckAt (.write .w4) false workSlot0).hung = true ∧ (stuckAt (.write .w4) false workSlot0).env.moves = [] ∧
    onNext (step (moving (stuckAt (.write .w4) false workSlot0) [⟨9, .hostWrite 0 2⟩])) (fun _ => true) = true := by
  decide +kernel

/-! Power loss and the host's registers. -/

theorem meets_PowerLossResetsTheBlock : stateS2.hung = false := by decide
theorem meets_PowerLossCutsAFlashOperation :
    (stateS2.inv = true ∧ stateS2.hung = false) ∧
    ([stuckAt (.write .w5program) true workSlot0,
      stuckAt (.write .w6program) true { workSlot0 with a := 0x1004, i := 0 },
      stuckAt (.write .w7program) true { workSlot0 with a := 0x1008, i := 0 },
      stuckAt (.write .w8program) true { workSlot0 with a := 0x100C },
      stuckAt (.write .w3erase) false workSlot0, stuckAt (.erase .e3erase) true { Work.zero with i := 1 },
      stuckAt (.write .w4) false workSlot0, stuckAt (.erase .e2) false Work.zero].all
        fun s => s.inv && s.hung) = true := by decide +kernel
/-- The first and the last word of both windows, idle and busy, and the offsets next to them. -/
theorem meets_HostReadChangesNothing :
    ([0x000, 0x02C, 0x030, 0xFFC, 0x1000, 0x101C, 0x1020, 0x2000, 0x201C, 0x2020, 0xFFFFFFFC].all
      fun off : Word => off.toNat % 4 == 0) = true ∧
    stateS.hw.kmax ≤ 1024 ∧ stateS.wrec.length = stateS.hw.kmax ∧ stateS.rrec.length = stateS.hw.kmax ∧
    7 < stateS.hw.kmax ∧ (0x201C : Word).toNat = 0x2000 + 4 * 7 ∧ stateS.ph = .idle ∧
    (atLine stateS (.write .w4) false).ph ≠ .idle := by decide
theorem meets_IllegalHostActionsOnlySetIllcmd :
    (∃ e, decode 0 = .error e) ∧ (atLine stateS (.write .w4) false).ph ≠ .idle ∧ fresh.cfgd = false ∧
      (5 : Word) ∈ [(2 : Word), 3, 4, 5] ∧ stateS.cfgd = true ∧ stateS.hw.kmax ≤ 1024 ∧ 7 < stateS.hw.kmax := by
  refine ⟨⟨_, rfl⟩, ?_⟩
  decide +kernel
theorem meets_LegalHostWritesSetTheRegister :
    fresh.ph = .idle ∧ fresh.cfgd = false ∧ fresh.hw.kmax ≤ 1024 ∧ 0 < fresh.hw.kmax ∧
    ([0x004, 0x02C, 0x030, 0xFFC, 0x1020, 0x2000, 0x3000, 0xFFFFFFFC].all
      fun off : Word => off.toNat % 4 == 0 && decide (off ∉ [(0x0 : Word), 0x10, 0x14, 0x18])
        && (List.range fresh.hw.kmax).all fun i => off.toNat != 0x1000 + 4 * i) = true := by decide
/-- Where the clauses of the register map meet: the last word of each window of 1024 words, and the next. -/
theorem test_register_map_edges :
    hostReg 1024 0x1000 = .wrec 0 ∧ hostReg 1024 0x1FFC = .wrec 1023 ∧ hostReg 1024 0x2000 = .rrec 0 ∧
      hostReg 1024 0x2FFC = .rrec 1023 ∧ hostReg 1024 0x3000 = .unmapped ∧ hostReg 8 0x1020 = .unmapped ∧
      hostReg 8 0x30 = .unmapped ∧ hostReg 8 0x2C = .curVer := by decide

/-! The geometry. -/

/-- The ends of `NextPow2`'s range, and where its clauses meet. -/
theorem meets_NextPow2IsTheLeastPowerOfTwo :
    nextPow2 1 = 1 ∧ nextPow2 0x80000000 = 0x80000000 ∧ nextPow2 0 = 0 ∧ nextPow2 0x80000001 = 0 := by decide
theorem meets_SlotSizeBounds :
    (0x7FFFFFF8 : Word).toNat ≤ 0x7FFFFFF8 ∧ slotBytesOf 0x7FFFFFF8 = 0x80000000 ∧ slotBytesOf 0 = 8 := by decide
theorem meets_SlotWordCounts : stateS.geomOK = true ∧ stateS.latched = true := by decide +kernel
theorem meets_EntryCountTilesTheRegion : stateD0.geomOK = true ∧ stateD0.latched = true := by decide +kernel
theorem meets_NextLocFollowsTheRing :
    stateS.geomOK = true ∧ stateS.latched = true ∧ 3 < stateS.entryCount.toNat ∧
      stateS.nextLoc (stateS.slotLoc 3) = stateS.slotLoc 0 := by decide +kernel
theorem meets_PageStartOfASlot :
    stateS.geomOK = true ∧ stateS.latched = true ∧ 2 < stateS.entryCount.toNat ∧
      stateS.pageStart (stateS.slotLoc 2) = true ∧ stateS.pageStart (stateS.slotLoc 3) = false := by decide +kernel

/-! The ports. -/

theorem meets_ProgramChangesOnlyItsWord :
    stateS2.mem.wf = true ∧ (0x1010 : Word).toNat % 4 = 0 ∧ stateS2.env.replyAt 0 = .returns true ∧
      (answering stateS2 [.hangs]).env.replyAt 0 = .hangs ∧
      stateS2.mem.readWord 0x1010 = stateS2.hw.erasedWord ∧ stateS2.mem.readWord 0x1000 ≠ stateS2.hw.erasedWord ∧
      (answering stateS2 [.returns false]).env.replyAt 0 = .returns false := by decide +kernel
theorem meets_EraseChangesOnlyItsPage :
    stateS2.mem.wf = true ∧ stateS2.isPage 0x1020 = true ∧ stateS2.isPage 0xFFFFFFE0 = true ∧
      (0xFFFFFFE0 : Word).toNat + stateS2.hw.pageSize.toNat ≤ 2 ^ 32 ∧
      stateS2.env.replyAt 0 = .returns true ∧ (answering stateS2 [.returns false]).env.replyAt 0 = .returns false ∧
      (answering stateS2 [.hangs]).env.replyAt 0 = .hangs := by decide +kernel
theorem meets_StreamedCrcIsTheBlockCrc : (0xFFFFFFFC : Word).toNat % 4 = 0 := by decide

/-! The commands. -/

theorem meets_ConfigureLatchesTheGeometry :
    fresh.quiet = true ∧ fresh.cfgd = false ∧ fresh.recBytes.toNat % 4 = 0 ∧
      { fresh with recBytes := 13 }.recBytes.toNat % 4 ≠ 0 ∧ { fresh with recBytes := 13 }.quiet = true ∧
      nextPow2 (0 + 8) ≠ 0 ∧ stateS.cfgd = true ∧ stateS.quiet = true := by decide +kernel
theorem meets_ResetForgetsTheCursor :
    afterW1.quiet = true ∧ afterW1.cfgd = true ∧ fresh.cfgd = false := by decide +kernel
theorem meets_ReadFromAKnownCursor : afterW1.ready = true ∧ afterW1.curv = true := by decide +kernel
theorem meets_ReadAdoptsTheScansAnswer :
    stateS2.ready = true ∧ stateS2.curv = false ∧ stateS2.scanAnswer = some (0x1000, 5) := by decide +kernel
theorem meets_ReadOfAnEmptyRegionIsNotFound :
    stateS.ready = true ∧ stateS.curv = false ∧ stateS.scanAnswer = none := by decide +kernel
/-- The current slot of T-S2 is slot 0. -/
theorem meets_ScanFindsExactlyTheCurrentSlot :
    stateS2.geomOK = true ∧ stateS2.latched = true ∧ stateS2.IsCurrent 0 := by
  refine ⟨by decide +kernel, by decide +kernel, ?_⟩
  unfold State.IsCurrent
  decide +kernel
/-- A WRITE into a slot that begins no page, one into a page start, one onto words that are not blank. -/
theorem meets_WriteMovesTheCursor :
    (afterW1.ready = true ∧ afterW1.env.allOk afterW1.writeCalls = true) ∧
      (stateS.ready = true ∧ stateS.env.allOk stateS.writeCalls = true) ∧
      ({ stateS2 with curv := true, curLoc := 0x1020 }.ready = true ∧
        { stateS2 with curv := true, curLoc := 0x1020 }.targetBlank = false) := by decide +kernel
theorem meets_WriteStoresTheSlotImage :
    (afterW1.ready = true ∧ afterW1.env.allOk afterW1.writeCalls = true ∧ afterW1.targetBlank = true ∧
      afterW1.pageStart afterW1.target = false) ∧
    (atLastPage.ready = true ∧ atLastPage.env.allOk atLastPage.writeCalls = true ∧
      atLastPage.targetBlank = true ∧ atLastPage.pageStart atLastPage.target = true) := by decide +kernel
theorem meets_WriteReportsAFailedPageErase :
    (answering atLastPage [.returns false]).ready = true ∧
      (answering atLastPage [.returns false]).pageStart (answering atLastPage [.returns false]).target = true ∧
      (answering atLastPage [.returns false]).env.replyAt 0 = .returns false := by decide +kernel
/-- The first and the last word of the slot, without a page erase and with one. -/
theorem meets_WriteReportsAFailedProgram :
    (let s := answering afterW1 [.returns true, .returns false]
     s.ready = true ∧ 0 < s.slotWords.toNat ∧ s.env.allOk (0 + 1 + 0) = true ∧ s.env.replyAt 1 = .returns false ∧
       s.pageStart s.target = false) ∧
    (let s := answering atLastPage [.returns true, .returns true, .returns true, .returns true, .returns true, .returns false]
     s.ready = true ∧ 3 < s.slotWords.toNat ∧ s.env.allOk (1 + 1 + 3) = true ∧ s.env.replyAt 5 = .returns false ∧
       s.pageStart s.target = true) := by decide +kernel
theorem meets_EraseBlanksTheRegion :
    afterW1.ready = true ∧ afterW1.env.allOk (afterW1.pageCount.toNat + 1) = true := by decide +kernel
/-- The first and the last page. -/
theorem meets_EraseStopsAtTheFirstFailingPage :
    (let s := answering afterW1 [.returns true, .returns false]
     s.ready = true ∧ 0 < s.pageCount.toNat ∧ s.env.allOk (0 + 1) = true ∧ s.env.replyAt (0 + 1) = .returns false) ∧
    (let s := answering afterW1 [.returns true, .returns true, .returns false]
     s.ready = true ∧ 1 < s.pageCount.toNat ∧ s.env.allOk (1 + 1) = true ∧ s.env.replyAt (1 + 1) = .returns false) := by
  decide +kernel
theorem meets_CommandsOutsideGeomOKAreRefused :
    (let s := { stateS with pageCount := 0 }
     s.ph = .idle ∧ s.cfgd = true ∧ s.geomOK = false) ∧ stateS.geomOK = true := by decide +kernel

/-! Frames and whole-machine rules. -/

theorem meets_ConfigureAndResetFrame :
    (∃ t, exec .configure fresh = .next t) ∧ (∃ t, exec .reset afterW1 = .next t) ∧
      ∃ t, (moving fresh [⟨3, .hostRead 4⟩]).Course .configure 2 t ∧ (t.ph == .idle) = true := by
  refine ⟨?_, ?_, course_meets (by decide +kernel)⟩
  · exact (of_onNext (p := fun _ => true) (by decide +kernel)).imp fun _ h => h.1
  · exact (of_onNext (p := fun _ => true) (by decide +kernel)).imp fun _ h => h.1
theorem meets_ReadFrame :
    (∃ t, exec .read afterW1 = .next t) ∧ afterW1.curv = true ∧ afterW1.ph = .idle ∧
      ∃ t, (moving afterW1 [⟨2, .hostRead 0x2000⟩, ⟨0, .powerLoss⟩]).Course .read 1 t ∧ t.losesPower = true := by
  refine ⟨?_, by decide, by decide, course_meets (by decide +kernel)⟩
  exact (of_onNext (p := fun _ => true) (by decide +kernel)).imp fun _ h => h.1
/-- A WRITE that erases a page first, one interrupted by a poll, one that goes on to its end after it,
one that loses power in the middle. -/
theorem meets_WriteFrame :
    atLastPage.inv = true ∧ (∃ t, exec .write atLastPage = .next t) ∧
      (moving atLastPage polls).inv = true ∧ (moving atLastPage polls).ph = .idle ∧
      (∃ t, (moving atLastPage polls).Course .write 0 t ∧ t.busy = true) ∧
      (∃ t, (moving atLastPage polls).Course .write 4 t ∧ (t.busy && t.illcmd && t.losesPower) = true) ∧
      ∃ t, (moving atLastPage [⟨9, .hostRead 4⟩]).Course .write 2 t ∧ (t.ph == .idle) = true := by
  refine ⟨by decide +kernel, ?_, by decide +kernel, by decide +kernel, course_meets (by decide +kernel),
    course_meets (by decide +kernel), course_meets (by decide +kernel)⟩
  exact (of_onNext (p := fun _ => true) (by decide +kernel)).imp fun _ h => h.1
theorem meets_EraseFrame :
    afterW1.inv = true ∧ (∃ t, exec .erase afterW1 = .next t) ∧
      (moving (answering afterW1 [.returns true, .hangs]) [⟨99, .powerLoss⟩]).inv = true ∧
      ∃ t, (moving (answering afterW1 [.returns true, .hangs]) [⟨99, .powerLoss⟩]).Course .erase 0 t ∧
        (t.hung && t.losesPower) = true := by
  refine ⟨by decide +kernel, ?_, by decide +kernel, course_meets (by decide +kernel)⟩
  exact (of_onNext (p := fun _ => true) (by decide +kernel)).imp fun _ h => h.1
/-- Each command with each kind it can end with (60_exceptions.md R171). -/
theorem meets_CommandsEndWithTheirKinds :
    (fresh.ph = .idle ∧ fresh.cfgd = false ∧ fresh.hung = false ∧ afterW1.ph = .idle ∧ afterW1.cfgd = true ∧
      afterW1.hung = false) ∧
    onNext (exec .configure fresh) (fun t => t.ph == .idle && t.kind == .ok) = true ∧
    onNext (exec .configure { fresh with recBytes := 2 }) (fun t => t.ph == .idle && t.kind == .configError) = true ∧
    onNext (exec .read afterW1) (fun t => t.ph == .idle && t.kind == .ok) = true ∧
    onNext (exec .read stateS) (fun t => t.ph == .idle && t.kind == .notFound) = true ∧
    onNext (exec .write afterW1) (fun t => t.ph == .idle && t.kind == .ok) = true ∧
    onNext (exec .write (answering stateS [.returns false])) (fun t => t.ph == .idle && t.kind == .ioError) = true ∧
    onNext (exec .erase afterW1) (fun t => t.ph == .idle && t.kind == .ok) = true ∧
    onNext (exec .erase (answering stateS [.returns true, .returns false]))
      (fun t => t.ph == .idle && t.kind == .ioError) = true ∧
    onNext (exec .reset afterW1) (fun t => t.ph == .idle && t.kind == .ok) = true ∧
    onNext (courseOf (moving afterW1 [⟨9, .hostRead 4⟩]) .write 2) (fun t => t.ph == .idle && t.kind == .ok) = true := by
  decide +kernel
theorem meets_RunningCommandKeepsTheResult :
    onNext (tick (atLine afterW1 (.write .w2) false)) (fun t => t.ph != .idle) = true := by decide +kernel
theorem meets_CompletionWritesOnlyTheResult :
    (atLine afterW1 (.write .wfRaise) false).ph ≠ .idle ∧
      onNext (tick (atLine afterW1 (.write .wfRaise) false)) (fun t => t.ph == .idle && t.kind == .ioError) = true ∧
      onNext (tick (atLine afterW1 (.read .rd3) false)) (fun t => t.ph == .idle && t.kind == .ok) = true := by
  decide +kernel
theorem meets_FailedWriteNeverMovesTheCursor :
    (let s := answering afterW1 [.returns true, .returns true, .returns false]
     s.ph = .idle ∧ s.cfgd = true ∧ s.hung = false ∧ s.curv = true ∧
       onNext (courseOf s .write 0) (fun t => t.ph == .idle && t.kind == .ioError) = true ∧
       onNext (courseOf (moving s [⟨8, .hostWrite 0 5⟩]) .write 2) (fun t => t.ph == .idle && t.kind == .ioError) = true) := by
  decide +kernel
theorem meets_WriteNeverTouchesTheCurrentSlot :
    atLastPage.inv = true ∧ atLastPage.ph = .idle ∧ atLastPage.cfgd = true ∧ atLastPage.curv = true ∧
      2 ≤ atLastPage.pageCount.toNat ∧ onNext (courseOf atLastPage .write 0) (fun _ => true) = true ∧
      (moving atLastPage polls).inv = true ∧
      onNext (courseOf (moving atLastPage polls) .write 4) (fun t => t.losesPower) = true ∧
      atLastPage.curLoc.toNat ≤ 0x101F ∧ 0x101F < atLastPage.curLoc.toNat + 4 * atLastPage.slotWords.toNat := by
  decide +kernel
theorem meets_ConfigurationIsImmutable :
    (moving stateS [⟨0, .hostWrite 0x18 8⟩]).inv = true ∧ (moving stateS [⟨0, .hostWrite 0x18 8⟩]).cfgd = true ∧
      onNext (step (moving stateS [⟨0, .hostWrite 0x18 8⟩])) (fun t => t.illcmd) = true := by decide +kernel
theorem meets_StepKeepsTheHardware : onNext (step fresh) (fun _ => true) = true := by decide +kernel
theorem meets_OnePortEventPerLine :
    onNext (tick (atLine stateS (.write .w5reset) true)) (fun t => t.trace == stateS.trace ++ [.crcReset]) = true := by
  decide +kernel
theorem meets_FlashOperationsAndTheLock :
    (atLine { stateS with wk := workSlot0 } (.write .w5program) true).lockOk = true ∧
    onNext (tick (atLine { stateS with wk := workSlot0 } (.write .w5program) true))
      (fun t => t.trace == [.memWrite 0x1000 0 true]) = true ∧
    (atLine { stateS with wk := workSlot0 } (.write .w3erase) false).lockOk = true ∧
    onNext (tick (atLine { stateS with wk := workSlot0 } (.write .w3erase) false))
      (fun t => t.trace == [.flashErase 0x1000 true]) = true ∧
    (atLine stateS (.erase .e3erase) true).lockOk = true ∧
    onNext (tick (atLine stateS (.erase .e3erase) true)) (fun t => t.trace == [.flashErase 0x1000 true]) = true := by
  decide +kernel
/-- The last slot of the Region: its header, its CRC, its trailer. -/
theorem meets_FlashAccessesLieInTheRegion :
    (let w := { Work.zero with i := 3, a := 0x1030 }
     (atLine { stateS with wk := w } (.scan .read .s4) false).inv = true ∧
     onNext (tick (atLine { stateS with wk := w } (.scan .read .s4) false))
       (fun t => t.trace == [.memRead 0x1030 0xFFFFFFFF]) = true ∧
     (atLine { stateS with wk := w } (.scan .read .s7crc) false).inv = true ∧
     onNext (tick (atLine { stateS with wk := w } (.scan .read .s7crc) false)) (fun t => t.trace.length == 1) = true ∧
     (atLine { stateS with wk := w } (.scan .read .s7trailer) false).inv = true ∧
     onNext (tick (atLine { stateS with wk := w } (.scan .read .s7trailer) false))
       (fun t => t.trace == [.memRead 0x103C 0xFFFFFFFF]) = true) := by decide +kernel
theorem meets_StepKeepsTheFlashCanonical :
    stateS2.mem.wf = true ∧ onNext (step (moving stateS2 [⟨0, .setFlash 0x100C 0xFDBABA38⟩])) (fun _ => true) = true := by
  decide +kernel
theorem meets_StepKeepsTheLockDiscipline :
    stateS.lockOk = true ∧ onNext (step (stateS.withFetchWord 32 4)) (fun t => t.ph == .idle) = true := by decide +kernel
theorem meets_StepKeepsTheInvariant :
    stateS2.inv = true ∧ onNext (step (stateS2.withFetchWord 32 3)) (fun _ => true) = true := by decide +kernel
theorem meets_StepNeverFaults : (atLine { stateS with wk := workSlot0 } (.write .w5program) true).inv = true := by
  decide +kernel
theorem meets_WriteThenReadReturnsTheRecord :
    afterW1.ready = true ∧ afterW1.env.allOk afterW1.writeCalls = true ∧ afterW1.targetBlank = true := by decide +kernel
theorem meets_WriteResetReadReturnsTheRecord :
    afterW1.ready = true ∧ afterW1.env.allOk afterW1.writeCalls = true ∧ afterW1.targetBlank = true ∧
      paramsOk afterW1.hw = true ∧ afterW1.cursorNow = afterW1.scanAnswer ∧ afterW1.targetVersion ≠ 0 := by decide +kernel
theorem meets_EraseThenReadIsNotFound :
    afterW1.ready = true ∧ paramsOk afterW1.hw = true ∧ afterW1.env.allOk (afterW1.pageCount.toNat + 1) = true := by
  decide +kernel

theorem meets_HostAccessDuringACommandChangesOnlyIllcmd :
    (let s := moving (atLine stateS (.write .w4) false) [⟨0, .hostWrite 0x18 8⟩]
     s.ph ≠ .idle ∧ s.waiting = true ∧ (0x18 : Word).toNat % 4 = 0) ∧
    (let s := moving (atLine stateS (.write .w4) false) [⟨0, .hostRead 0x2000⟩]
     s.ph ≠ .idle ∧ s.waiting = true ∧ (0x2000 : Word).toNat % 4 = 0) := by decide +kernel
/-- A WRITE that ends, and one that comes to hang, with a poll and an ignored write in it. -/
theorem meets_HostAccessesDoNotChangeTheCommand :
    (let s := moving atLastPage [⟨9, .hostRead 4⟩, ⟨3, .hostWrite 0x1000 7⟩]
     s.ph = .idle ∧ s.hung = false ∧
       (∀ m ∈ s.env.moves, ∃ off v, off.toNat % 4 = 0 ∧
         (m.move = .hostRead off ∧ off.toNat < 0x2000 ∨ m.move = .hostWrite off v))) ∧
    onNext (exec .write { atLastPage with env := { atLastPage.env with moves := [] } }) (fun t => t.ph == .idle) = true ∧
    onNext (exec .write (answering { atLastPage with env := { atLastPage.env with moves := [] } }
      [.returns true, .hangs])) (fun t => t.hung) = true := by
  refine ⟨⟨by decide, by decide, ?_⟩, by decide +kernel, by decide +kernel⟩
  intro m hm
  simp only [moving, List.mem_cons, List.not_mem_nil, or_false] at hm
  rcases hm with rfl | rfl
  · exact ⟨4, 0, by decide, .inl ⟨rfl, by decide⟩⟩
  · exact ⟨0x1000, 7, by decide, .inr rfl⟩

end Sys2Proof.Tests
end

/-! The CRC engine (20_memory.md R55 to R59). -/

namespace Sys2Proof.Machine

open Sys2Proof

/-- Feeding words one by one folds them into the accumulator (R57). -/
theorem foldl_crcAcc_acc (s : State) (ws : List Word) :
    (ws.foldl State.crcAcc s).acc = ws.foldl (crcStep s.hw.crc) s.acc := by
  induction ws generalizing s with
  | nil => rfl
  | cons w ws ih => exact ih (s.crcAcc w)

theorem foldl_crcAcc_crcReset_acc (s : State) (ws : List Word) :
    (ws.foldl State.crcAcc s.crcReset).acc = crc s.hw.crc ws :=
  foldl_crcAcc_acc s.crcReset ws

/-- Settles O23: the streamed CRC by induction on the words fed, the block CRC by what `crcBlock` answers
at an aligned address. -/
theorem streamedCrcIsTheBlockCrc : Obligations.StreamedCrcIsTheBlockCrc := by
  intro s ws w addr n haddr
  refine ⟨s.crcReset_acc, s.crcAcc_acc w, rfl, foldl_crcAcc_crcReset_acc s ws, _, crcBlock_of_aligned haddr, ?_⟩
  exact ⟨rfl, rfl, rfl⟩

end Sys2Proof.Machine

/-! The lines that make a flash event, and the lock (20_memory.md R52). -/

namespace Sys2Proof.Machine

open Sys2Proof

/-- The lines of WRITE that program a word. -/
def Phase.programs : Phase → Bool
  | .write .w5program | .write .w6program | .write .w7program | .write .w8program => true
  | _ => false

/-- The flash events the line `PH` names can make, each with its address; of an event that is no flash
access nothing is said. -/
def State.issues (s : State) : Event → Prop
  | .memRead a _ =>
    (s.ph = .read .rd2copy ∧ s.wk.i ≠ s.payloadWords ∧ a = s.curLoc + 4 + 4 * s.wk.i) ∨
      ∃ c, (s.ph = .scan c .s4 ∧ a = s.wk.a) ∨
        (s.ph = .scan c .s7trailer ∧ a = s.wk.a + 4 * (s.slotWords - 1))
  | .crcBlock a n _ => (∃ c, s.ph = .scan c .s7crc) ∧ a = s.wk.a ∧ n = (s.slotWords - 1).toNat
  | .memWrite a _ _ => s.ph.programs = true ∧ a = s.wk.a
  | .flashErase a _ =>
    (s.ph = .write .w3erase ∧ a = s.wk.nloc) ∨ (s.ph = .erase .e3erase ∧ a = s.pageAddr s.wk.i)
  | _ => True

/-- From `s` to `t` at most one port event happened, one that the line of `s` issues. -/
def State.OneEvent (s t : State) : Prop :=
  t.trace = s.trace ∨ ∃ e, t.trace = s.trace ++ [e] ∧ s.issues e

/-! The event of each port operation. -/

theorem memRead_oneEvent {addr : Word} {s t : State} {k : Word → State → State}
    (h : memRead addr s k = .next t) (hk : ∀ v u, (k v u).trace = u.trace)
    (hs : ∀ v, s.issues (.memRead addr v)) : s.OneEvent t := by
  obtain ⟨-, rfl⟩ := memRead_next h
  exact .inr ⟨_, hk _ _, hs _⟩

theorem crcBlock_oneEvent {addr : Word} {n : Nat} {s t : State} {k : Word → State → State}
    (h : crcBlock addr n s k = .next t) (hk : ∀ v u, (k v u).trace = u.trace)
    (hs : ∀ v, s.issues (.crcBlock addr n v)) : s.OneEvent t := by
  obtain ⟨-, rfl⟩ := crcBlock_next h
  exact .inr ⟨_, hk _ _, hs _⟩

theorem memWrite_oneEvent {addr v : Word} {p q : Phase} {s t : State}
    (h : memWrite addr v p q s = .next t) (hs : ∀ ok, s.issues (.memWrite addr v ok)) : s.OneEvent t := by
  obtain ⟨-, ⟨-, rfl⟩ | ⟨ok, -, rfl⟩⟩ := memWrite_next h
  · exact .inl rfl
  · exact .inr ⟨_, by simp, hs ok⟩

theorem flashErase_oneEvent {addr : Word} {f g : State → State} {s t : State}
    (h : flashErase addr f g s = .next t) (hf : ∀ u, (f u).trace = u.trace) (hg : ∀ u, (g u).trace = u.trace)
    (hs : ∀ ok, s.issues (.flashErase addr ok)) : s.OneEvent t := by
  obtain ⟨-, ⟨-, rfl⟩ | ⟨ok, -, rfl⟩⟩ := flashErase_next h
  · exact .inl rfl
  · exact .inr ⟨.flashErase addr ok, by cases ok <;> simp [hf, hg], hs ok⟩

theorem lockAcquire_oneEvent {p : Phase} {s t : State} (h : lockAcquire p s = .next t) : s.OneEvent t := by
  obtain ⟨-, rfl⟩ | ⟨ok, -, rfl⟩ := lockAcquire_next h
  · exact .inl rfl
  · exact .inr ⟨.lockAcquire, rfl, trivial⟩

theorem programNext_oneEvent {v : Word} {l : WLine} {s t : State} (h : programNext v l s = .next t)
    (hp : s.ph.programs = true) : s.OneEvent t :=
  memWrite_oneEvent h fun _ => ⟨hp, rfl⟩

/-! The event of each line. -/

theorem configureLine_oneEvent {l : CLine} {s t : State} (h : configureLine l s = .next t) : s.OneEvent t := by
  cases l with
  | c1 =>
    simp only [configureLine, raise] at h
    split at h <;> exact .inl (by cases h; rfl)
  | c2 => cases h; exact .inr ⟨_, rfl, trivial⟩
  | c3 | c4 | c5 | c6 => cases h; exact .inl rfl

theorem scanLine_oneEvent {c : Caller} {l : ScanLine} {s t : State} (hp : s.ph = .scan c l)
    (h : scanLine c l s = .next t) : s.OneEvent t := by
  cases l with
  | s4 =>
    rw [scanLine] at h
    exact memRead_oneEvent h (fun _ _ => rfl) (fun _ => .inr ⟨c, .inl ⟨hp, rfl⟩⟩)
  | s7crc =>
    rw [scanLine] at h
    exact crcBlock_oneEvent h (fun _ _ => rfl) (fun _ => ⟨⟨c, hp⟩, rfl, rfl⟩)
  | s7trailer =>
    rw [scanLine] at h
    exact memRead_oneEvent h (fun _ _ => rfl) (fun _ => .inr ⟨c, .inr ⟨hp, rfl⟩⟩)
  | s7keep | s9 => cases h; exact .inl (by split <;> rfl)
  | s1 | s2 | s3 | s5 | s6 | s8 => cases h; exact .inl rfl

theorem readLine_oneEvent {l : RLine} {s t : State} (hp : s.ph = .read l)
    (h : readLine l s = .next t) : s.OneEvent t := by
  cases l with
  | rd2copy =>
    simp only [readLine] at h
    split at h
    · cases h; exact .inl rfl
    · split at h
      · exact memRead_oneEvent h (fun _ _ => rfl) (fun _ => .inl ⟨hp, ‹_›, rfl⟩)
      · cases h
  | rd1 | rd1NotFound | rd2start | rd3 => cases h; exact .inl rfl

theorem writeLine_oneEvent {l : WLine} {s t : State} (hp : s.ph = .write l)
    (h : writeLine l s = .next t) : s.OneEvent t := by
  cases l with
  | w3erase => exact flashErase_oneEvent h (fun _ => rfl) (fun _ => rfl) (fun _ => .inl ⟨hp, rfl⟩)
  | w4 => exact lockAcquire_oneEvent h
  | w5program | w7program | w8program => exact programNext_oneEvent h (by rw [hp]; rfl)
  | w6program =>
    simp only [writeLine] at h
    split at h
    · exact programNext_oneEvent h (by rw [hp]; rfl)
    · cases h
  | w5reset | w5feed | w6feed | w7draw | w7feed | w8value | w10release | wfRelease =>
    cases h; exact .inr ⟨_, rfl, trivial⟩
  | w1 | w2 | w3 | w3raise | w6start | w6test | w7start | w7test | w9 | w10complete | wfRaise =>
    cases h; exact .inl rfl

theorem eraseLine_oneEvent {l : ELine} {s t : State} (hp : s.ph = .erase l)
    (h : eraseLine l s = .next t) : s.OneEvent t := by
  cases l with
  | e2 => exact lockAcquire_oneEvent h
  | e3erase => exact flashErase_oneEvent h (fun _ => rfl) (fun _ => rfl) (fun _ => .inr ⟨hp, rfl⟩)
  | e3release | e4release => cases h; exact .inr ⟨_, rfl, trivial⟩
  | e1 | e3start | e3test | e3raise | e4complete => cases h; exact .inl rfl

theorem resetLine_oneEvent {l : XLine} {s t : State} (h : resetLine l s = .next t) : s.OneEvent t := by
  cases l <;> cases h <;> exact .inl rfl

/-- A line makes at most one port event, and a flash event only where the line is one that accesses
the flash (R62). -/
theorem tick_oneEvent {s t : State} (h : tick s = .next t) : s.OneEvent t := by
  unfold tick at h
  split at h
  case h_1 => cases h; exact .inl rfl
  case h_2 => exact configureLine_oneEvent h
  case h_3 hp => exact scanLine_oneEvent hp h
  case h_4 hp => exact readLine_oneEvent hp h
  case h_5 hp => exact writeLine_oneEvent hp h
  case h_6 hp => exact eraseLine_oneEvent hp h
  case h_7 => exact resetLine_oneEvent h

theorem tick_issues {s t : State} {e : Event} (h : tick s = .next t) (he : t.trace = s.trace ++ [e]) :
    s.issues e := by
  obtain hsame | ⟨e', he', hissue⟩ := tick_oneEvent h
  · simp [hsame] at he
  · obtain rfl : e = e' := by simpa [he'] using he.symm
    exact hissue

/-! The lock on those lines. -/

theorem lockh_of_lockOk {s : State} (h : s.lockOk = true) : s.lockh = s.ph.holdsLock := by
  simp only [State.lockOk, Bool.and_eq_true, beq_iff_eq] at h
  exact h.1

theorem holdsLock_of_programs {p : Phase} (h : p.programs = true) : p.holdsLock = true := by
  unfold Phase.programs at h
  split at h
  case h_5 => cases h
  all_goals rfl

/-- Settles O49: the line that made the event is known by its event (`tick_issues`), and the lock
discipline says whether that line holds the lock. -/
theorem flashOperationsAndTheLock : Obligations.FlashOperationsAndTheLock := by
  intro s t hlock htick
  rw [lockh_of_lockOk hlock]
  refine ⟨fun a v ok he => ?_, fun a ok he => ?_, fun a v he => ?_, fun a n v he => ?_⟩
  · obtain ⟨hp, -⟩ := tick_issues htick he
    exact holdsLock_of_programs hp
  · obtain ⟨hp, -⟩ | ⟨hp, -⟩ := tick_issues htick he
    · exact .inr (by simp [hp, Phase.command, Phase.holdsLock])
    · exact .inl (by simp [hp, Phase.command, Phase.holdsLock])
  · obtain ⟨hp, -, -⟩ | ⟨c, ⟨hp, -⟩ | ⟨hp, -⟩⟩ := tick_issues htick he <;> rw [hp] <;> rfl
  · obtain ⟨⟨c, hp⟩, -, -⟩ := tick_issues htick he
    rw [hp]; rfl

end Sys2Proof.Machine

/-! The header word (30_encoding.md R70). -/

namespace Sys2Proof.Machine

open Sys2Proof

theorem header_toNat (ver : Ver) : (header ver).toNat = Config.magic.toNat <<< 24 ||| ver.toNat :=
  BitVec.toNat_append Config.magic ver

theorem header_eq_or (ver : Ver) : header ver = 0xBE000000 ||| ver.zeroExtend 32 := by
  have hver : ver.toNat < 2 ^ 32 := Nat.lt_trans ver.isLt (by decide)
  apply BitVec.eq_of_toNat_eq
  rw [header_toNat, BitVec.toNat_or, BitVec.toNat_setWidth, Nat.mod_eq_of_lt hver]
  rfl

theorem headerMagic_header (ver : Ver) : headerMagic (header ver) = Config.magic :=
  BitVec.extractLsb'_append_eq_left

theorem headerVersion_header (ver : Ver) : headerVersion (header ver) = ver :=
  BitVec.extractLsb'_append_eq_right

theorem headerMagic_toNat (h : Word) : (headerMagic h).toNat = h.toNat / 2 ^ 24 := by
  rw [headerMagic, BitVec.extractLsb'_toNat, Nat.shiftRight_eq_div_pow]
  exact Nat.mod_eq_of_lt (by have := h.isLt; omega)

theorem headerVersion_toNat (h : Word) : (headerVersion h).toNat = h.toNat % 2 ^ 24 := by
  rw [headerVersion, BitVec.extractLsb'_toNat, Nat.shiftRight_zero]

/-- Settles O4: the fields of the concatenation, and the bits of any word as quotient and remainder. -/
theorem headerFieldsDecode : Obligations.HeaderFieldsDecode :=
  ⟨fun ver => ⟨header_eq_or ver, headerMagic_header ver, headerVersion_header ver⟩,
    fun h => ⟨headerMagic_toNat h, headerVersion_toNat h⟩⟩

end Sys2Proof.Machine

/-! The host's accesses: which register an offset names, and what a write or a read of it does
(10_state.md R11, 30_encoding.md R77). -/

namespace Sys2Proof.Machine

open Sys2Proof

theorem busy_iff (s : State) : s.busy = true ↔ s.ph ≠ .idle := by simp [State.busy]

/-- The word `i` of `WREC` stands at `0x1000 + 4 * i` (10_state.md R11). -/
theorem hostReg_wrec {kmax i : Nat} (hkmax : kmax ≤ 1024) (hi : i < kmax) :
    hostReg kmax (BitVec.ofNat 32 (0x1000 + 4 * i)) = .wrec i := by
  have hoff : (BitVec.ofNat 32 (0x1000 + 4 * i)).toNat = 0x1000 + 4 * i := by
    rw [BitVec.toNat_ofNat]; omega
  have hix : (0x1000 + 4 * i - 0x1000) / 4 = i := by omega
  simp (disch := omega) only [hostReg, hoff, hix, if_neg, if_pos]

theorem hostWrite_cmd (w : Word) (s : State) : hostWrite 0 w s = commandWrite w s := rfl

theorem hostWrite_firstLoc (v : Word) (s : State) :
    hostWrite 0x10 v s = configWrite s { s with firstLoc := v } := rfl

theorem hostWrite_pageCount (v : Word) (s : State) :
    hostWrite 0x14 v s = configWrite s { s with pageCount := v } := rfl

theorem hostWrite_recBytes (v : Word) (s : State) :
    hostWrite 0x18 v s = configWrite s { s with recBytes := v } := rfl

theorem hostWrite_wrec {s : State} {i : Nat} (hkmax : s.hw.kmax ≤ 1024) (hi : i < s.hw.kmax) (v : Word) :
    hostWrite (BitVec.ofNat 32 (0x1000 + 4 * i)) v s =
      if s.busy then .next s.illegal else .next { s with wrec := s.wrec.set i v } := by
  have haligned : aligned (BitVec.ofNat 32 (0x1000 + 4 * i)) = true := by
    rw [aligned_iff, BitVec.toNat_ofNat]; omega
  rw [hostWrite, if_pos haligned, hostReg_wrec hkmax hi]

/-- A read changes the host's and environment's side only: what was read, and in the window of `RREC`
the unspecified value used up. -/
theorem hostRead_of_aligned {off : Word} (h : off.toNat % 4 = 0) (s : State) :
    ∃ e, hostRead off s = .next { s with env := e } := by
  simp only [hostRead, (aligned_iff off).2 h, if_true]
  split
  · split <;> exact ⟨_, rfl⟩
  · exact ⟨_, rfl⟩

/-! The writes R77 forbids. -/

theorem configWrite_of_illegal {s : State} (h : s.cfgd = true ∨ s.ph ≠ .idle) (t : State) :
    configWrite s t = .next s.illegal := by
  rw [← busy_iff] at h
  exact if_pos (by simpa using h)

theorem commandWrite_of_decode {w : Word} {i : Instr} (h : decode w = .ok i) (s : State) :
    commandWrite w s = exec i s := by
  rw [commandWrite, h]

theorem commandWrite_of_error {w : Word} {e : DecodeError} (h : decode w = .error e) (s : State) :
    commandWrite w s = .next s.illegal := by
  rw [commandWrite, h]

/-- A busy block takes no command (R77 item 2). -/
theorem exec_of_busy {s : State} (h : s.ph ≠ .idle) (i : Instr) : exec i s = .next s.illegal := by
  rw [← busy_iff] at h
  cases i <;> exact if_pos (by simp [h])

/-- A block that is not configured takes `CONFIGURE` alone (R77 item 3). -/
theorem exec_of_not_configured {s : State} (h : s.cfgd = false) {i : Instr} (hi : i ≠ .configure) :
    exec i s = .next s.illegal := by
  cases i with
  | configure => exact absurd rfl hi
  | read | write | erase | reset => exact if_pos (by simp [h])

/-- A configured block takes no `CONFIGURE` (R77 item 4). -/
theorem exec_configure_of_configured {s : State} (h : s.cfgd = true) :
    exec .configure s = .next s.illegal :=
  if_pos (by simp [h])

theorem commandWrite_of_busy {s : State} (h : s.ph ≠ .idle) (w : Word) :
    commandWrite w s = .next s.illegal := by
  cases hw : decode w with
  | error e => exact commandWrite_of_error hw s
  | ok i => exact (commandWrite_of_decode hw s).trans (exec_of_busy h i)

/-- The words 2 to 5 are commands other than `CONFIGURE` (R74). -/
theorem decode_of_mem_two_to_five {w : Word} (h : w ∈ [(2 : Word), 3, 4, 5]) :
    ∃ i, decode w = .ok i ∧ i ≠ .configure := by
  simp only [List.mem_cons, List.not_mem_nil, or_false] at h
  obtain rfl | rfl | rfl | rfl := h
  · exact ⟨.read, rfl, by decide⟩
  · exact ⟨.write, rfl, by decide⟩
  · exact ⟨.erase, rfl, by decide⟩
  · exact ⟨.reset, rfl, by decide⟩

/-- Settles O13: a write to `CMD` by what the word decodes to and by the state, a register write by its
own check, a read by `hostRead_of_aligned`. -/
theorem illegalHostActionsOnlySetIllcmd : Obligations.IllegalHostActionsOnlySetIllcmd := by
  intro s w v
  refine ⟨fun ⟨_, he⟩ => commandWrite_of_error he s, fun hbusy => commandWrite_of_busy hbusy w,
    fun hcfgd hw => ?_, fun hcfgd => exec_configure_of_configured hcfgd, fun h => ?_,
    fun i hbusy hkmax hi => ?_, fun off hoff => hostRead_of_aligned hoff s, fun i hbusy => ?_⟩
  · obtain ⟨i, hdecode, hi⟩ := decode_of_mem_two_to_five hw
    exact (commandWrite_of_decode hdecode s).trans (exec_of_not_configured hcfgd hi)
  · rw [hostWrite_firstLoc, hostWrite_pageCount, hostWrite_recBytes]
    exact ⟨configWrite_of_illegal h _, configWrite_of_illegal h _, configWrite_of_illegal h _⟩
  · rw [hostWrite_wrec hkmax hi]
    exact if_pos ((busy_iff s).2 hbusy)
  · exact if_pos ((busy_iff s).2 hbusy)

end Sys2Proof.Machine

/-! `NextPow2` and the slot size (40_geometry_configure.md R91, R92). -/

namespace Sys2Proof.Machine

open Sys2Proof

/-- Bit `i` of `w` is the or of the `n` bits of `v` from `i` up. -/
def SmearOf (n : Nat) (v w : Word) : Prop :=
  ∀ i, w.getLsbD i = true ↔ ∃ d, d < n ∧ v.getLsbD (i + d) = true

theorem smearOf_one (v : Word) : SmearOf 1 v v := by
  intro i
  simp

/-- One smear doubles the bits that are or-ed together. -/
theorem SmearOf.smear {n : Nat} {v w : Word} (h : SmearOf n v w) : SmearOf (n + n) v (smear w n) := by
  intro i
  rw [Machine.smear, BitVec.getLsbD_or, BitVec.getLsbD_ushiftRight, Bool.or_eq_true, h i, h (n + i)]
  constructor
  · rintro (⟨d, hd, hbit⟩ | ⟨d, hd, hbit⟩)
    · exact ⟨d, by omega, hbit⟩
    · exact ⟨n + d, by omega, by rwa [show i + (n + d) = n + i + d by omega]⟩
  · rintro ⟨d, hd, hbit⟩
    by_cases hdn : d < n
    · exact .inl ⟨d, hdn, hbit⟩
    · exact .inr ⟨d - n, by omega, by rwa [show n + i + (d - n) = i + d by omega]⟩

/-- The or of all bits from `i` up says whether the value reaches `2 ^ i`. -/
theorem SmearOf.getLsbD_iff {v w : Word} (h : SmearOf 32 v w) (i : Nat) :
    w.getLsbD i = true ↔ 2 ^ i ≤ v.toNat := by
  rw [h i]
  constructor
  · rintro ⟨d, -, hbit⟩
    exact (Nat.pow_le_pow_right (by decide) (Nat.le_add_right i d)).trans (Nat.ge_two_pow_of_testBit hbit)
  · intro hle
    obtain ⟨j, hj, hbit⟩ := Nat.exists_ge_and_testBit_of_ge_two_pow hle
    have hj32 : j < 32 := BitVec.lt_of_getLsbD (x := v) hbit
    exact ⟨j - i, by omega, by rwa [Nat.add_sub_cancel' hj]⟩

/-- All bits below the highest one set: one less than a power of two. -/
theorem SmearOf.toNat_eq {v w : Word} (h : SmearOf 32 v w) : w.toNat = 2 ^ v.toNat.size - 1 := by
  apply Nat.eq_of_testBit_eq
  intro i
  rw [Nat.testBit_two_pow_sub_one, Bool.eq_iff_iff, BitVec.testBit_toNat, h.getLsbD_iff i, decide_eq_true_iff,
    Nat.lt_size]

theorem nextPow2_toNat (v : Word) : (nextPow2 v).toNat = 2 ^ (v - 1).toNat.size % 2 ^ 32 := by
  have hsmear := (((((smearOf_one (v - 1)).smear).smear).smear).smear).smear.toNat_eq
  have hpos : 0 < 2 ^ (v - 1).toNat.size := Nat.two_pow_pos _
  rw [nextPow2, BitVec.toNat_add, hsmear]
  exact congrArg (· % 2 ^ 32) (Nat.sub_add_cancel hpos)

theorem nextPow2_toNat_of_le {v : Word} (hpos : 1 ≤ v.toNat) (hle : v.toNat ≤ 0x80000000) :
    (nextPow2 v).toNat = 2 ^ (v.toNat - 1).size := by
  have hsub : (v - 1).toNat = v.toNat - 1 := BitVec.toNat_sub_of_le hpos
  have hsize : (v.toNat - 1).size ≤ 31 := Nat.size_le.2 (by omega)
  rw [nextPow2_toNat, hsub]
  exact Nat.mod_eq_of_lt (Nat.pow_lt_pow_right (by decide) (by omega))

theorem nextPow2_of_lt {v : Word} (h : 0x80000000 < v.toNat) : nextPow2 v = 0 := by
  have hsub : (v - 1).toNat = v.toNat - 1 := BitVec.toNat_sub_of_le (show 1 ≤ v.toNat by omega)
  have hsize : (v.toNat - 1).size = 32 :=
    le_antisymm (Nat.size_le.2 (by omega)) (Nat.lt_size.2 (show 2 ^ 31 ≤ _ by omega))
  apply BitVec.eq_of_toNat_eq
  rw [nextPow2_toNat, hsub, hsize]
  rfl

theorem le_two_pow_iff_size_le {m : Nat} (hpos : 1 ≤ m) (j : Nat) : m ≤ 2 ^ j ↔ (m - 1).size ≤ j := by
  rw [Nat.size_le]
  omega

/-- Settles O15: the smears fill every bit below the highest one of `v - 1`, so adding 1 gives two to its
size, or 0 when that is `2 ^ 32`. -/
theorem nextPow2IsTheLeastPowerOfTwo : Obligations.NextPow2IsTheLeastPowerOfTwo := by
  intro v
  refine ⟨fun hpos hle => ?_, ?_, nextPow2_of_lt⟩
  · exact ⟨_, nextPow2_toNat_of_le hpos hle, (le_two_pow_iff_size_le hpos _).2 le_rfl,
      fun j => (le_two_pow_iff_size_le hpos j).1⟩
  · rintro rfl
    decide

/-- Under P4 the record with its header and trailer does not wrap. -/
theorem recBytes_add_eight_toNat {rec : Word} (h : rec.toNat ≤ 0x7FFFFFF8) :
    (rec + 8).toNat = rec.toNat + 8 :=
  BitVec.toNat_add_of_lt (show rec.toNat + 8 < 2 ^ 32 by omega)

theorem slotBytesOf_toNat {rec : Word} (h : rec.toNat ≤ 0x7FFFFFF8) :
    (slotBytesOf rec).toNat = 2 ^ (rec.toNat + 7).size := by
  have hadd := recBytes_add_eight_toNat h
  rw [slotBytesOf, nextPow2_toNat_of_le (by omega) (by omega), hadd]
  rfl

theorem add_eight_le_slotBytesOf {rec : Word} (h : rec.toNat ≤ 0x7FFFFFF8) :
    rec.toNat + 8 ≤ (slotBytesOf rec).toNat := by
  rw [slotBytesOf_toNat h]
  exact Nat.lt_size_self (rec.toNat + 7)

/-- Half the slot size is at most `recBytes + 7`, because the power of two is the least one. -/
theorem slotBytesOf_lt_twice {rec : Word} (h : rec.toNat ≤ 0x7FFFFFF8) :
    (slotBytesOf rec).toNat < 2 * (rec.toNat + 8) := by
  obtain ⟨k, hk⟩ := Nat.exists_eq_succ_of_ne_zero (Nat.size_pos.2 (show 0 < rec.toNat + 7 by omega)).ne'
  have hhalf : 2 ^ k ≤ rec.toNat + 7 := Nat.lt_size.1 (by omega)
  rw [slotBytesOf_toNat h, hk, Nat.pow_succ]
  omega

theorem slotBytesOf_le {rec : Word} (h : rec.toNat ≤ 0x7FFFFFF8) : (slotBytesOf rec).toNat ≤ 0x80000000 := by
  rw [slotBytesOf_toNat h]
  exact Nat.pow_le_pow_right (by decide : 2 > 0) (show _ ≤ 31 from Nat.size_le.2 (by omega))

/-- Settles O16: the bounds of the least power of two not below `recBytes + 8`. -/
theorem slotSizeBounds : Obligations.SlotSizeBounds := by
  intro rec
  refine ⟨rfl, fun h => ?_⟩
  have hlow := add_eight_le_slotBytesOf h
  have htwice := slotBytesOf_lt_twice h
  exact ⟨by omega, slotBytesOf_le h, ⟨_, slotBytesOf_toNat h⟩, hlow, htwice, by omega⟩

end Sys2Proof.Machine

/-! The latched geometry: the words of a slot, the slots of the Region, the ring and the page starts
(40_geometry_configure.md R93 to R97). -/

namespace Sys2Proof.Machine

open Sys2Proof

/-- `GeomOK` as arithmetic: the premises P1 to P7 of 00_scope.md R7 on a state's registers. -/
structure State.GeomFacts (s : State) : Prop where
  pageSize_dvd_firstLoc : s.pageSize.toNat ∣ s.firstLoc.toNat
  pageCount_pos : 1 ≤ s.pageCount.toNat
  eight_le_pageSize : 8 ≤ s.pageSize.toNat
  pageSize_pow : ∃ k, s.pageSize.toNat = 2 ^ k
  recBytes_le : s.recBytes.toNat ≤ 0x7FFFFFF8
  slotBytesOf_le : (slotBytesOf s.recBytes).toNat ≤ s.pageSize.toNat
  region_lt : s.pageCount.toNat * s.pageSize.toNat < 2 ^ 32
  regionEnd_le : s.firstLoc.toNat + s.pageCount.toNat * s.pageSize.toNat ≤ 2 ^ 32
  recBytes_le_buffers : s.recBytes.toNat ≤ 4 * s.hw.kmax

theorem State.geomFacts {s : State} (h : s.geomOK = true) : s.GeomFacts := by
  simp only [State.geomOK, Geometry.ok, Geometry.p1, Geometry.p2, Geometry.p3, Geometry.p4, Geometry.p5,
    Geometry.p6, Geometry.p7, Bool.and_eq_true, decide_eq_true_eq, beq_iff_eq, List.any_eq_true] at h
  obtain ⟨⟨⟨⟨⟨⟨hfirst, hpages⟩, height, k, -, hk⟩, hrec⟩, hslot⟩, hregion, hend⟩, hbuffers⟩ := h
  exact ⟨Nat.dvd_of_mod_eq_zero hfirst, hpages, height, ⟨k, hk⟩, hrec, hslot, hregion, hend, hbuffers⟩

theorem pageSize_pos {s : State} (hg : s.geomOK = true) : 0 < s.pageSize.toNat :=
  Nat.lt_of_lt_of_le (by decide) (State.geomFacts hg).eight_le_pageSize

theorem State.latched_iff (s : State) : s.latched = true ↔
    s.recBytes % 4 = 0 ∧ s.pageSize = s.hw.pageSize ∧ s.slotBytes = slotBytesOf s.recBytes ∧
      s.entryCount = entryCountOf s.pageSize s.pageCount s.slotBytes := by
  simp [State.latched, and_assoc]

theorem two_pow_dvd_of_le {j k : Nat} (h : 2 ^ j ≤ 2 ^ k) : 2 ^ j ∣ 2 ^ k :=
  Nat.pow_dvd_pow 2 ((Nat.pow_le_pow_iff_right (by decide)).1 h)

theorem umod_four_eq_zero_iff (v : Word) : v % 4 = 0 ↔ v.toNat % 4 = 0 := by
  rw [← BitVec.toNat_inj, BitVec.toNat_umod]
  rfl

theorem four_dvd_recBytes {s : State} (hl : s.latched = true) : 4 ∣ s.recBytes.toNat := by
  obtain ⟨hrec, -⟩ := s.latched_iff.1 hl
  exact Nat.dvd_of_mod_eq_zero ((umod_four_eq_zero_iff _).1 hrec)

theorem slotBytes_of_latched {s : State} (hl : s.latched = true) : s.slotBytes = slotBytesOf s.recBytes := by
  obtain ⟨-, -, hslot, -⟩ := s.latched_iff.1 hl
  exact hslot

section

variable {s : State} (hg : s.geomOK = true) (hl : s.latched = true)
include hg hl

/-! The slot size of a latched geometry. -/

theorem slotBytes_pow : ∃ k, s.slotBytes.toNat = 2 ^ k := by
  rw [slotBytes_of_latched hl]
  exact ⟨_, slotBytesOf_toNat (State.geomFacts hg).recBytes_le⟩

theorem recBytes_add_eight_le_slotBytes : s.recBytes.toNat + 8 ≤ s.slotBytes.toNat := by
  rw [slotBytes_of_latched hl]
  exact add_eight_le_slotBytesOf (State.geomFacts hg).recBytes_le

theorem slotBytes_lt_twice : s.slotBytes.toNat < 2 * (s.recBytes.toNat + 8) := by
  rw [slotBytes_of_latched hl]
  exact slotBytesOf_lt_twice (State.geomFacts hg).recBytes_le

theorem slotBytes_pos : 0 < s.slotBytes.toNat := by
  have := recBytes_add_eight_le_slotBytes hg hl
  omega

theorem four_dvd_slotBytes : 4 ∣ s.slotBytes.toNat := by
  have hle := recBytes_add_eight_le_slotBytes hg hl
  obtain ⟨k, hk⟩ := slotBytes_pow hg hl
  rw [hk]
  exact two_pow_dvd_of_le (j := 2) (by omega)

/-- A slot never crosses a page boundary. -/
theorem slotBytes_dvd_pageSize : s.slotBytes.toNat ∣ s.pageSize.toNat := by
  have hle := (State.geomFacts hg).slotBytesOf_le
  obtain ⟨j, hj⟩ := (State.geomFacts hg).pageSize_pow
  obtain ⟨k, hk⟩ := slotBytes_pow hg hl
  rw [← slotBytes_of_latched hl] at hle
  rw [hk, hj] at hle ⊢
  exact two_pow_dvd_of_le hle

/-! The slots of the Region. -/

theorem entryCount_eq : s.entryCount = s.pageSize * s.pageCount / s.slotBytes := by
  obtain ⟨-, -, -, hcount⟩ := s.latched_iff.1 hl
  have hne : s.slotBytes ≠ 0 := fun h => (slotBytes_pos hg hl).ne' (congrArg BitVec.toNat h)
  rw [hcount, entryCountOf, if_neg hne]

theorem entryCount_toNat : s.entryCount.toNat = s.pageCount.toNat * s.pageSize.toNat / s.slotBytes.toNat := by
  rw [entryCount_eq hg hl, BitVec.toNat_udiv, BitVec.toNat_mul, Nat.mul_comm s.pageSize.toNat,
    Nat.mod_eq_of_lt (State.geomFacts hg).region_lt]

theorem entryCount_mul_slotBytes :
    s.entryCount.toNat * s.slotBytes.toNat = s.pageCount.toNat * s.pageSize.toNat := by
  rw [entryCount_toNat hg hl]
  exact Nat.div_mul_cancel (dvd_mul_of_dvd_right (slotBytes_dvd_pageSize hg hl) _)

theorem entryCount_eq_pages_mul :
    s.entryCount.toNat = s.pageCount.toNat * (s.pageSize.toNat / s.slotBytes.toNat) := by
  rw [entryCount_toNat hg hl, Nat.mul_div_assoc _ (slotBytes_dvd_pageSize hg hl)]

theorem entryCount_pos : 1 ≤ s.entryCount.toNat := by
  have hpages := (State.geomFacts hg).pageCount_pos
  have hslots : 0 < s.pageSize.toNat / s.slotBytes.toNat :=
    Nat.div_pos (Nat.le_of_dvd (pageSize_pos hg) (slotBytes_dvd_pageSize hg hl)) (slotBytes_pos hg hl)
  rw [entryCount_eq_pages_mul hg hl]
  exact Nat.mul_pos hpages hslots

/-- The offset of a slot in the Region, which does not wrap; also that of the address after the last slot. -/
theorem slotLoc_sub_firstLoc {i : Nat} (hi : i ≤ s.entryCount.toNat) :
    (s.slotLoc i - s.firstLoc).toNat = i * s.slotBytes.toNat := by
  have hle : i * s.slotBytes.toNat ≤ s.entryCount.toNat * s.slotBytes.toNat := Nat.mul_le_mul_right _ hi
  have hregion := (State.geomFacts hg).region_lt
  rw [entryCount_mul_slotBytes hg hl] at hle
  rw [State.slotLoc, State.slotAddr, add_sub_cancel_left, BitVec.toNat_mul, BitVec.toNat_ofNat,
    Nat.mod_eq_of_lt (hi.trans_lt s.entryCount.isLt), Nat.mod_eq_of_lt (hle.trans_lt hregion)]

end

/-! The words of a slot. -/

theorem slotWords_toNat (s : State) : s.slotWords.toNat = s.slotBytes.toNat / 4 := BitVec.toNat_udiv

theorem payloadWords_toNat (s : State) : s.payloadWords.toNat = s.recBytes.toNat / 4 := BitVec.toNat_udiv

/-- Header and trailer leave room for the payload. -/
theorem payloadWords_add_two_le {s : State} (hg : s.geomOK = true) (hl : s.latched = true) :
    s.payloadWords.toNat + 2 ≤ s.slotWords.toNat := by
  have hle := recBytes_add_eight_le_slotBytes hg hl
  rw [payloadWords_toNat, slotWords_toNat]
  omega

theorem fillerCount_toNat {s : State} (hg : s.geomOK = true) (hl : s.latched = true) :
    s.fillerCount.toNat = s.slotWords.toNat - s.payloadWords.toNat - 2 := by
  have hle := payloadWords_add_two_le hg hl
  have hsub : (s.slotWords - s.payloadWords).toNat = s.slotWords.toNat - s.payloadWords.toNat :=
    BitVec.toNat_sub_of_le (show s.payloadWords.toNat ≤ s.slotWords.toNat by omega)
  have htwo : (2 : Word).toNat ≤ (s.slotWords - s.payloadWords).toNat := by
    rw [hsub]
    exact Nat.le_sub_of_add_le' hle
  rw [State.fillerCount, BitVec.toNat_sub_of_le htwo, hsub]
  rfl

/-- Settles O17: the counts are quotients by 4 of sizes that 4 divides. -/
theorem slotWordCounts : Obligations.SlotWordCounts := by
  intro s hg hl
  have hroom := payloadWords_add_two_le hg hl
  have hfiller := fillerCount_toNat hg hl
  have htwice := slotBytes_lt_twice hg hl
  have hslot := four_dvd_slotBytes hg hl
  have hrec := four_dvd_recBytes hl
  have hwords := slotWords_toNat s
  have hpayload := payloadWords_toNat s
  exact ⟨hwords, hpayload, by omega, by omega, by omega⟩

/-- Settles O18: the slot size divides the page size, both being powers of two. -/
theorem entryCountTilesTheRegion : Obligations.EntryCountTilesTheRegion := fun _ hg hl =>
  ⟨entryCount_eq hg hl, entryCount_pos hg hl, entryCount_eq_pages_mul hg hl, entryCount_mul_slotBytes hg hl⟩

/-! The ring. -/

@[simp] theorem slotLoc_zero (s : State) : s.slotLoc 0 = s.firstLoc := by
  simp [State.slotLoc, State.slotAddr]

theorem slotLoc_succ (s : State) (i : Nat) : s.slotLoc (i + 1) = s.slotLoc i + s.slotBytes := by
  simp [State.slotLoc, State.slotAddr, BitVec.ofNat_add, BitVec.add_mul, BitVec.add_assoc]

/-- `NextLoc` wraps exactly after the last slot (R96). -/
theorem nextLoc_slotLoc {s : State} (hg : s.geomOK = true) (hl : s.latched = true) {i : Nat}
    (hi : i < s.entryCount.toNat) :
    s.nextLoc (s.slotLoc i) = if s.entryCount.toNat ≤ i + 1 then s.firstLoc else s.slotLoc (i + 1) := by
  have hregion : (s.entryCount * s.slotBytes).toNat = s.entryCount.toNat * s.slotBytes.toNat := by
    rw [BitVec.toNat_mul, entryCount_mul_slotBytes hg hl, Nat.mod_eq_of_lt (State.geomFacts hg).region_lt]
  have hwrap : s.entryCount * s.slotBytes ≤ s.slotLoc (i + 1) - s.firstLoc ↔ s.entryCount.toNat ≤ i + 1 := by
    rw [BitVec.le_def, hregion, slotLoc_sub_firstLoc hg hl hi]
    exact Nat.mul_le_mul_right_iff (slotBytes_pos hg hl)
  simp only [State.nextLoc, ← slotLoc_succ, hwrap]

/-- Settles O19: the rule's function by definition, the successor of a slot by `nextLoc_slotLoc`. -/
theorem nextLocFollowsTheRing : Obligations.NextLocFollowsTheRing := by
  refine ⟨fun _ _ => rfl, fun s i hg hl hi => ?_⟩
  rw [nextLoc_slotLoc hg hl hi]
  split
  case isTrue hlast =>
    rw [show i + 1 = s.entryCount.toNat by omega, Nat.mod_self, slotLoc_zero]
  case isFalse hmore =>
    rw [Nat.mod_eq_of_lt (by omega)]

/-! Page starts. -/

theorem pageStart_iff (s : State) (loc : Word) :
    s.pageStart loc = true ↔ (loc - s.firstLoc).toNat % s.pageSize.toNat = 0 := by
  rw [State.pageStart, beq_iff_eq, ← BitVec.toNat_inj, BitVec.toNat_umod]
  rfl

/-- The page size divides `2 ^ 32` and the Region starts at a page, so the offset in the Region and the
address agree modulo the page size. -/
theorem pageStart_iff_dvd {s : State} (hg : s.geomOK = true) (loc : Word) :
    s.pageStart loc = true ↔ s.pageSize.toNat ∣ loc.toNat := by
  obtain ⟨k, hk⟩ := (State.geomFacts hg).pageSize_pow
  have hspace : s.pageSize.toNat ∣ 2 ^ 32 := by
    have hlt := s.pageSize.isLt
    rw [hk] at hlt ⊢
    exact two_pow_dvd_of_le hlt.le
  have hloc : loc.toNat = ((loc - s.firstLoc).toNat + s.firstLoc.toNat) % 2 ^ 32 := by
    rw [← BitVec.toNat_add, sub_add_cancel]
  rw [pageStart_iff, ← Nat.dvd_iff_mod_eq_zero, hloc, Nat.dvd_mod_iff hspace,
    Nat.dvd_add_left (State.geomFacts hg).pageSize_dvd_firstLoc]

theorem pageStart_slotLoc_iff {s : State} (hg : s.geomOK = true) (hl : s.latched = true) {i : Nat}
    (hi : i < s.entryCount.toNat) :
    s.pageStart (s.slotLoc i) = true ↔ i % (s.pageSize.toNat / s.slotBytes.toNat) = 0 := by
  obtain ⟨q, hq⟩ := slotBytes_dvd_pageSize hg hl
  have hpos := slotBytes_pos hg hl
  rw [pageStart_iff, slotLoc_sub_firstLoc hg hl hi.le, hq, Nat.mul_div_cancel_left q hpos,
    Nat.mul_comm s.slotBytes.toNat, Nat.mul_mod_mul_right, Nat.mul_eq_zero]
  simp [hpos.ne']

/-- Settles O20: `pageStart_iff_dvd` for any address, the offset of slot `i` for a slot. -/
theorem pageStartOfASlot : Obligations.PageStartOfASlot :=
  ⟨pageStart_iff, fun _ hg =>
    ⟨fun loc => (pageStart_iff_dvd hg loc).trans Nat.dvd_iff_mod_eq_zero,
      fun hl _ hi => pageStart_slotLoc_iff hg hl hi⟩⟩

end Sys2Proof.Machine

/-! Running lines with no move to come, and CONFIGURE (40_geometry_configure.md R100). -/

namespace Sys2Proof.Machine

open Sys2Proof

theorem State.quiet_iff (s : State) :
    s.quiet = true ↔ s.ph = .idle ∧ s.hung = false ∧ s.env.moves = [] := by
  simp [State.quiet, and_assoc]

theorem waiting_of_line {s : State} (hbusy : s.busy = true) (hhung : s.hung = false)
    (hmoves : s.env.moves = []) : s.waiting = false := by
  simp [State.waiting, State.due, (busy_iff s).1 hbusy, hhung, hmoves]

/-- With no move to come, a run of a busy block is one line and then the rest. -/
theorem run_of_line {n : Nat} {s t : State} (htick : tick s = .next t) (henv : t.env = s.env)
    (hbusy : s.busy = true) (hhung : s.hung = false) (hmoves : s.env.moves = []) :
    run (n + 1) s = run n t := by
  rw [run_of_tick (waiting_of_line hbusy hhung hmoves) htick, t.elapse_of_no_moves (henv ▸ hmoves)]

/-- A command that comes to its end in few lines has that end. -/
theorem start_of_run {p : Phase} {n : Nat} {s t : State} (hn : n ≤ lineLimit) (h : run n (s.goto p) = .next t)
    (hidle : t.ph = .idle) : start p s = .next t :=
  run_of_le hn h (by simp [State.waiting, hidle])

/-- What CONFIGURE leaves when it accepts the record size. -/
def State.configured (s : State) : State :=
  { s with
    pageSize := s.hw.pageSize, slotBytes := slotBytesOf s.recBytes,
    entryCount := entryCountOf s.hw.pageSize s.pageCount (slotBytesOf s.recBytes),
    cfgd := true, curv := false, kind := .ok, fop := .none, errAddr := 0, lastOp := some .configure,
    trace := s.trace ++ [.flashPageSize s.hw.pageSize] }

theorem configureLine_c1_of_unaligned {s : State} (h : s.recBytes.toNat % 4 ≠ 0) :
    configureLine .c1 s = .next (s.finish .configError .none 0) := by
  rw [configureLine, raise_eq, if_pos (by simpa only [bne_iff_ne, ne_eq, umod_four_eq_zero_iff] using h)]

theorem configureLine_c1_of_aligned {s : State} (h : s.recBytes.toNat % 4 = 0) :
    configureLine .c1 s = .next (s.goto (.configure .c2)) := by
  rw [configureLine, if_neg (by simpa only [bne_iff_ne, ne_eq, not_not, umod_four_eq_zero_iff] using h)]

theorem run_configure_of_unaligned {s : State} (hhung : s.hung = false) (hmoves : s.env.moves = [])
    (h : s.recBytes.toNat % 4 ≠ 0) :
    run 1 (s.goto (.configure .c1)) = .next ((s.goto (.configure .c1)).finish .configError .none 0) :=
  run_of_line (configureLine_c1_of_unaligned h) rfl rfl hhung hmoves

/-- The six lines of CONFIGURE, C1 to C6. -/
theorem run_configure_of_aligned {s : State} (hhung : s.hung = false) (hmoves : s.env.moves = [])
    (h : s.recBytes.toNat % 4 = 0) :
    run 6 (s.goto (.configure .c1)) = .next { s.configured with ph := .idle } :=
  Eq.trans (run_of_line (configureLine_c1_of_aligned h) rfl rfl hhung hmoves) <|
  Eq.trans (run_of_line rfl rfl rfl hhung hmoves) <|
  Eq.trans (run_of_line rfl rfl rfl hhung hmoves) <|
  Eq.trans (run_of_line rfl rfl rfl hhung hmoves) <|
  Eq.trans (run_of_line rfl rfl rfl hhung hmoves) <|
  run_of_line rfl rfl rfl hhung hmoves

theorem exec_configure_of_allowed {s : State} (hph : s.ph = .idle) (hcfgd : s.cfgd = false) :
    exec .configure s = start (.configure .c1) s :=
  if_neg (by simp [State.busy, hph, hcfgd])

theorem exec_configure_of_unaligned {s : State} (hquiet : s.quiet = true) (hcfgd : s.cfgd = false)
    (h : s.recBytes.toNat % 4 ≠ 0) :
    exec .configure s = .next { s with
      kind := .configError, fop := .none, errAddr := 0, lastOp := some .configure } := by
  obtain ⟨hph, hhung, hmoves⟩ := s.quiet_iff.1 hquiet
  rw [exec_configure_of_allowed hph hcfgd,
    start_of_run (by decide) (run_configure_of_unaligned hhung hmoves h) rfl]
  simp [State.finish, State.goto, hph, Phase.command]

theorem exec_configure_of_aligned {s : State} (hquiet : s.quiet = true) (hcfgd : s.cfgd = false)
    (h : s.recBytes.toNat % 4 = 0) : exec .configure s = .next s.configured := by
  obtain ⟨hph, hhung, hmoves⟩ := s.quiet_iff.1 hquiet
  rw [exec_configure_of_allowed hph hcfgd,
    start_of_run (by decide) (run_configure_of_aligned hhung hmoves h) rfl]
  simp [State.configured, hph]

/-- Settles O24: C1 alone for an unaligned record size, all six lines for any other, and R77's check. -/
theorem configureLatchesTheGeometry : Obligations.ConfigureLatchesTheGeometry := by
  refine ⟨by decide, fun s => ⟨fun hquiet hcfgd h => ?_, fun hquiet hcfgd h => ?_, ?_⟩⟩
  · exact ⟨s.wk, exec_configure_of_unaligned hquiet hcfgd h⟩
  · exact ⟨s.wk, _, exec_configure_of_aligned hquiet hcfgd h, fun hne => if_neg hne⟩
  · rintro (hbusy | hcfgd)
    · exact exec_of_busy hbusy .configure
    · exact exec_configure_of_configured hcfgd

end Sys2Proof.Machine

/-! RESET (43_erase_reset.md R165). -/

namespace Sys2Proof.Machine

open Sys2Proof

/-- What RESET leaves of an idle block. -/
def State.cursorReset (s : State) : State :=
  { s with curv := false, kind := .ok, fop := .none, errAddr := 0, lastOp := some .reset }

/-- The two lines of RESET, X1 and X2. -/
theorem run_reset {s : State} (hhung : s.hung = false) (hmoves : s.env.moves = []) :
    run 2 (s.goto (.reset .x1)) = .next { s.cursorReset with ph := .idle } :=
  Eq.trans (run_of_line rfl rfl rfl hhung hmoves) <|
  run_of_line rfl rfl rfl hhung hmoves

theorem exec_reset_of_allowed {s : State} (hph : s.ph = .idle) (hcfgd : s.cfgd = true) :
    exec .reset s = start (.reset .x1) s :=
  if_neg (by simp [State.busy, hph, hcfgd])

theorem exec_reset_of_quiet {s : State} (hquiet : s.quiet = true) (hcfgd : s.cfgd = true) :
    exec .reset s = .next s.cursorReset := by
  obtain ⟨hph, hhung, hmoves⟩ := s.quiet_iff.1 hquiet
  rw [exec_reset_of_allowed hph hcfgd, start_of_run (by decide) (run_reset hhung hmoves) rfl]
  simp [State.cursorReset, hph]

/-- Settles O25: both lines of RESET when it is allowed, and R77's check. -/
theorem resetForgetsTheCursor : Obligations.ResetForgetsTheCursor := by
  refine ⟨by decide, fun s => ⟨fun hquiet hcfgd => ⟨s.wk, exec_reset_of_quiet hquiet hcfgd⟩, ?_⟩⟩
  rintro (hbusy | hcfgd)
  · exact exec_of_busy hbusy .reset
  · exact exec_of_not_configured hcfgd (by decide)

end Sys2Proof.Machine

/-! How a line leaves the phase (60_exceptions.md R170, R172): the command goes on, or it ends by the one
step `State.finish`. -/

namespace Sys2Proof.Machine

open Sys2Proof

/-- The results a command can end with: `FOP` and `ERRADDR` are 0 but for `IoError`, which names the flash
operation that failed (R170). -/
def WellFormedResult (kind : Kind) (fop : FlashOp) (addr : Word) : Prop :=
  (kind ≠ .ioError → fop = .none ∧ addr = 0) ∧ (kind = .ioError → fop ≠ .none)

theorem wellFormedResult_of_ne_ioError {kind : Kind} (h : kind ≠ .ioError) : WellFormedResult kind .none 0 :=
  ⟨fun _ => ⟨rfl, rfl⟩, fun hio => absurd hio h⟩

theorem wellFormedResult_ioError {fop : FlashOp} (h : fop ≠ .none) (addr : Word) :
    WellFormedResult .ioError fop addr :=
  ⟨fun hne => absurd rfl hne, fun _ => h⟩

/-- From `s` to `t` the command went on, or it ended by `State.finish` with a result it can end with. -/
def State.GoesOnOrFinishes (s t : State) : Prop :=
  t.ph ≠ .idle ∨ ∃ kind fop addr, t = s.finish kind fop addr ∧ WellFormedResult kind fop addr

theorem complete_goesOnOrFinishes {s t : State} (h : complete s = .next t) : s.GoesOnOrFinishes t := by
  cases h
  exact .inr ⟨_, _, _, rfl, wellFormedResult_of_ne_ioError (by nofun)⟩

theorem raise_goesOnOrFinishes {kind : Kind} {fop : FlashOp} {addr : Word} {s t : State}
    (h : raise kind fop addr s = .next t) (hr : WellFormedResult kind fop addr) : s.GoesOnOrFinishes t := by
  cases h
  exact .inr ⟨_, _, _, rfl, hr⟩

theorem goto_ite_busy {c : Prop} [Decidable c] {p q : Phase} (hp : p ≠ .idle) (hq : q ≠ .idle) (s : State) :
    (s.goto (if c then p else q)).ph ≠ .idle := by
  rw [State.goto_ph]
  split <;> assumption

/-! A port operation never ends a command: it goes on at a phase of its own, or hangs where it is. -/

theorem memRead_busy {addr : Word} {s t : State} {k : Word → State → State} (h : memRead addr s k = .next t)
    (hk : ∀ v u, u.ph = s.ph → (k v u).ph ≠ .idle) : t.ph ≠ .idle := by
  obtain ⟨-, rfl⟩ := memRead_next h
  exact hk _ _ rfl

theorem crcBlock_busy {addr : Word} {n : Nat} {s t : State} {k : Word → State → State}
    (h : crcBlock addr n s k = .next t) (hk : ∀ v u, (k v u).ph ≠ .idle) : t.ph ≠ .idle := by
  obtain ⟨-, rfl⟩ := crcBlock_next h
  exact hk _ _

theorem memWrite_busy {addr v : Word} {p q : Phase} {s t : State} (h : memWrite addr v p q s = .next t)
    (hs : s.ph ≠ .idle) (hp : p ≠ .idle) (hq : q ≠ .idle) : t.ph ≠ .idle := by
  obtain ⟨-, ⟨-, rfl⟩ | ⟨ok, -, rfl⟩⟩ := memWrite_next h
  · exact hs
  · exact goto_ite_busy hp hq _

theorem flashErase_busy {addr : Word} {f g : State → State} {s t : State}
    (h : flashErase addr f g s = .next t) (hs : s.ph ≠ .idle) (hf : ∀ u, (f u).ph ≠ .idle)
    (hg : ∀ u, (g u).ph ≠ .idle) : t.ph ≠ .idle := by
  obtain ⟨-, ⟨-, rfl⟩ | ⟨ok, -, rfl⟩⟩ := flashErase_next h
  · exact hs
  · cases ok
    · exact hg _
    · exact hf _

theorem lockAcquire_busy {p : Phase} {s t : State} (h : lockAcquire p s = .next t)
    (hs : s.ph ≠ .idle) (hp : p ≠ .idle) : t.ph ≠ .idle := by
  obtain ⟨-, rfl⟩ | ⟨ok, -, rfl⟩ := lockAcquire_next h
  · exact hs
  · exact hp

theorem programNext_busy {v : Word} {l : WLine} {s t : State} (h : programNext v l s = .next t)
    (hs : s.ph ≠ .idle) : t.ph ≠ .idle :=
  memWrite_busy h hs nofun nofun

theorem Caller.found_ne_idle (c : Caller) : c.found ≠ .idle := by cases c <;> nofun

theorem Caller.notFound_ne_idle (c : Caller) : c.notFound ≠ .idle := by cases c <;> nofun

/-! The lines of each command. -/

theorem configureLine_goesOnOrFinishes {l : CLine} {s t : State} (h : configureLine l s = .next t) :
    s.GoesOnOrFinishes t := by
  cases l with
  | c1 =>
    simp only [configureLine] at h
    split at h
    · exact raise_goesOnOrFinishes h (wellFormedResult_of_ne_ioError (by nofun))
    · cases h; exact .inl nofun
  | c2 | c3 | c4 | c5 => cases h; exact .inl nofun
  | c6 => exact complete_goesOnOrFinishes h

/-- No line of `SCAN` ends the command that called it (R113). -/
theorem scanLine_busy {c : Caller} {l : ScanLine} {s t : State} (h : scanLine c l s = .next t) :
    t.ph ≠ .idle := by
  cases l with
  | s4 | s7trailer =>
    rw [scanLine] at h
    exact memRead_busy h fun _ _ _ => nofun
  | s7crc =>
    rw [scanLine] at h
    exact crcBlock_busy h fun _ _ => nofun
  | s2 | s5 | s6 => cases h; exact goto_ite_busy (by nofun) (by nofun) s
  | s9 =>
    cases h
    split
    · exact c.found_ne_idle
    · exact c.notFound_ne_idle
  | s1 | s3 | s7keep | s8 => cases h; exact nofun

theorem readLine_goesOnOrFinishes {l : RLine} {s t : State} (hs : s.ph ≠ .idle)
    (h : readLine l s = .next t) : s.GoesOnOrFinishes t := by
  cases l with
  | rd1 => cases h; exact .inl (goto_ite_busy (by nofun) (by nofun) s)
  | rd1NotFound => exact raise_goesOnOrFinishes h (wellFormedResult_of_ne_ioError (by nofun))
  | rd2start => cases h; exact .inl nofun
  | rd2copy =>
    simp only [readLine] at h
    split at h
    · cases h; exact .inl nofun
    · split at h
      · exact .inl (memRead_busy h fun _ _ hu => hu ▸ hs)
      · cases h
  | rd3 => exact complete_goesOnOrFinishes h

theorem writeLine_goesOnOrFinishes {l : WLine} {s t : State} (hs : s.ph ≠ .idle)
    (h : writeLine l s = .next t) : s.GoesOnOrFinishes t := by
  cases l with
  | w3erase => exact .inl (flashErase_busy h hs (fun _ => nofun) (fun _ => nofun))
  | w4 => exact .inl (lockAcquire_busy h hs nofun)
  | w5program | w7program | w8program => exact .inl (programNext_busy h hs)
  | w6program =>
    simp only [writeLine] at h
    split at h
    · exact .inl (programNext_busy h hs)
    · cases h
  | w3raise | wfRaise => exact raise_goesOnOrFinishes h (wellFormedResult_ioError (by nofun) _)
  | w10complete => exact complete_goesOnOrFinishes h
  | w1 | w3 | w6test | w7test => cases h; exact .inl (goto_ite_busy (by nofun) (by nofun) s)
  | w2 | w5reset | w5feed | w6start | w6feed | w7start | w7draw | w7feed | w8value | w9 | w10release
  | wfRelease => cases h; exact .inl nofun

theorem eraseLine_goesOnOrFinishes {l : ELine} {s t : State} (hs : s.ph ≠ .idle)
    (h : eraseLine l s = .next t) : s.GoesOnOrFinishes t := by
  cases l with
  | e2 => exact .inl (lockAcquire_busy h hs nofun)
  | e3erase => exact .inl (flashErase_busy h hs (fun _ => nofun) (fun _ => nofun))
  | e3raise => exact raise_goesOnOrFinishes h (wellFormedResult_ioError (by nofun) _)
  | e4complete => exact complete_goesOnOrFinishes h
  | e3test => cases h; exact .inl (goto_ite_busy (by nofun) (by nofun) s)
  | e1 | e3start | e3release | e4release => cases h; exact .inl nofun

theorem resetLine_goesOnOrFinishes {l : XLine} {s t : State} (h : resetLine l s = .next t) :
    s.GoesOnOrFinishes t := by
  cases l with
  | x1 => cases h; exact .inl nofun
  | x2 => exact complete_goesOnOrFinishes h

/-- A line of a running command keeps the block busy, or ends the command by R172's one step. -/
theorem tick_goesOnOrFinishes {s t : State} (hs : s.ph ≠ .idle) (h : tick s = .next t) :
    s.GoesOnOrFinishes t := by
  unfold tick at h
  split at h
  case h_1 hp => exact absurd hp hs
  case h_2 => exact configureLine_goesOnOrFinishes h
  case h_3 => exact .inl (scanLine_busy h)
  case h_4 => exact readLine_goesOnOrFinishes hs h
  case h_5 => exact writeLine_goesOnOrFinishes hs h
  case h_6 => exact eraseLine_goesOnOrFinishes hs h
  case h_7 => exact resetLine_goesOnOrFinishes h

/-- Settles O43: a line that leaves the block idle ended its command by `State.finish`, the whole of whose
effect the statement writes out. -/
theorem completionWritesOnlyTheResult : Obligations.CompletionWritesOnlyTheResult := by
  intro s t hs htick hidle
  obtain hbusy | ⟨kind, fop, addr, rfl, hresult⟩ := tick_goesOnOrFinishes hs htick
  · exact absurd hidle hbusy
  · exact ⟨rfl, hresult⟩

end Sys2Proof.Machine

/-! What a line leaves as it was, said once per command: the next state is the old one but for the
registers that the command's lines set. -/

namespace Sys2Proof.Machine

open Sys2Proof

/-- A program is one word written and perhaps one draw used. -/
theorem programmed_eq (s : State) (addr v : Word) (ok : Bool) :
    s.programmed addr v ok = { s with
      mem := (s.programmed addr v ok).mem
      env := { s.env with drawIx := (s.programmed addr v ok).env.drawIx } } := by
  unfold State.programmed
  split <;> rfl

/-- A page erase is one page written and perhaps its draws used. -/
theorem erased_eq (s : State) (addr : Word) (ok : Bool) :
    s.erased addr ok = { s with
      mem := (s.erased addr ok).mem
      env := { s.env with drawIx := (s.erased addr ok).env.drawIx } } := by
  unfold State.erased
  split <;> rfl

/-- What a port call that may hang can change: the flash, the lock, the hung mark, the counters of the
environment, the CRC accumulator, the working registers, the phase and the trace. -/
def State.flashUpdate (s t : State) : State :=
  { s with
    ph := t.ph, wk := t.wk, mem := t.mem, lockh := t.lockh, ctrlHeld := t.ctrlHeld, hung := t.hung, acc := t.acc
    env := { s.env with replyIx := t.env.replyIx, drawIx := t.env.drawIx, unspecIx := t.env.unspecIx }
    trace := t.trace }

theorem memWrite_frame {addr v : Word} {p q : Phase} {s t : State} (h : memWrite addr v p q s = .next t) :
    t = s.flashUpdate t := by
  obtain ⟨-, ⟨-, rfl⟩ | ⟨ok, -, rfl⟩⟩ := memWrite_next h
  · rfl
  · rw [programmed_eq]; rfl

theorem lockAcquire_frame {p : Phase} {s t : State} (h : lockAcquire p s = .next t) : t = s.flashUpdate t := by
  obtain ⟨-, rfl⟩ | ⟨ok, -, rfl⟩ := lockAcquire_next h <;> rfl

theorem flashErase_frame {addr : Word} {f g : State → State} {s t : State}
    (h : flashErase addr f g s = .next t) (hf : ∀ u, f u = u.flashUpdate (f u))
    (hg : ∀ u, g u = u.flashUpdate (g u)) : t = s.flashUpdate t := by
  obtain ⟨-, ⟨-, rfl⟩ | ⟨ok, -, rfl⟩⟩ := flashErase_next h
  · rfl
  · cases ok
    · rw [if_neg (by decide), hg, erased_eq]; rfl
    · rw [if_pos rfl, hf, erased_eq]; rfl

theorem accUnspecified_eq (s : State) : s.accUnspecified = { s with
    acc := s.env.unspecAt 0, env := { s.env with unspecIx := s.env.unspecIx + 1 } } := rfl

theorem configureLine_frame {l : CLine} {s t : State} (h : configureLine l s = .next t) :
    t = { s with
      ph := t.ph, pageSize := t.pageSize, slotBytes := t.slotBytes, entryCount := t.entryCount, cfgd := t.cfgd
      curv := t.curv, kind := t.kind, fop := t.fop, lastOp := t.lastOp, errAddr := t.errAddr, trace := t.trace } := by
  cases l with
  | c1 =>
    simp only [configureLine, raise] at h
    split at h <;> (cases h; rfl)
  | c2 | c3 | c4 | c5 | c6 => cases h; rfl

theorem scanLine_frame {c : Caller} {l : ScanLine} {s t : State} (h : scanLine c l s = .next t) :
    t = { s with
      ph := t.ph, wk := t.wk, acc := t.acc, curv := t.curv, curLoc := t.curLoc, curVer := t.curVer
      env := { s.env with unspecIx := t.env.unspecIx }, trace := t.trace } := by
  cases l with
  | s4 | s7trailer =>
    rw [scanLine] at h
    obtain ⟨-, rfl⟩ := memRead_next h
    rfl
  | s7crc =>
    rw [scanLine] at h
    obtain ⟨-, rfl⟩ := crcBlock_next h
    rw [accUnspecified_eq]
    rfl
  | s7keep | s9 =>
    simp only [scanLine] at h
    split at h <;> (cases h; rfl)
  | s1 | s2 | s3 | s5 | s6 | s8 => cases h; rfl

theorem readLine_frame {l : RLine} {s t : State} (h : readLine l s = .next t) :
    t = { s with
      ph := t.ph, wk := t.wk, rrec := t.rrec, kind := t.kind, fop := t.fop, lastOp := t.lastOp
      errAddr := t.errAddr, trace := t.trace } := by
  cases l with
  | rd2copy =>
    simp only [readLine] at h
    split at h
    · cases h; rfl
    · split at h
      · obtain ⟨-, rfl⟩ := memRead_next h
        rfl
      · cases h
  | rd1 | rd1NotFound | rd2start | rd3 => cases h; rfl

theorem eraseLine_frame {l : ELine} {s t : State} (h : eraseLine l s = .next t) :
    t = { s.flashUpdate t with
      curv := t.curv, kind := t.kind, fop := t.fop, lastOp := t.lastOp, errAddr := t.errAddr } := by
  cases l with
  | e2 => rw [eraseLine] at h; rw [lockAcquire_frame h]; rfl
  | e3erase => rw [eraseLine] at h; rw [flashErase_frame h (fun _ => rfl) (fun _ => rfl)]; rfl
  | e1 | e3start | e3test | e3release | e3raise | e4release | e4complete => cases h; rfl

/-- ERASE feeds no word to the CRC engine. -/
theorem eraseLine_acc {l : ELine} {s t : State} (h : eraseLine l s = .next t) : t.acc = s.acc := by
  cases l with
  | e2 => obtain ⟨-, rfl⟩ | ⟨ok, -, rfl⟩ := lockAcquire_next h <;> rfl
  | e3erase =>
    obtain ⟨-, ⟨-, rfl⟩ | ⟨ok, -, rfl⟩⟩ := flashErase_next h
    · rfl
    · cases ok <;> simp
  | e1 | e3start | e3test | e3release | e3raise | e4release | e4complete => cases h; rfl

theorem writeLine_frame {l : WLine} {s t : State} (h : writeLine l s = .next t) :
    t = { s.flashUpdate t with
      curv := t.curv, curLoc := t.curLoc, curVer := t.curVer
      kind := t.kind, fop := t.fop, lastOp := t.lastOp, errAddr := t.errAddr } := by
  cases l with
  | w3erase => rw [writeLine] at h; rw [flashErase_frame h (fun _ => rfl) (fun _ => rfl)]; rfl
  | w4 => rw [writeLine] at h; rw [lockAcquire_frame h]; rfl
  | w5program | w7program | w8program => rw [writeLine] at h; rw [memWrite_frame h]; rfl
  | w6program =>
    simp only [writeLine] at h
    split at h
    · rw [memWrite_frame h]; rfl
    · cases h
  | w1 | w2 | w3 | w3raise | w5reset | w5feed | w6start | w6test | w6feed | w7start | w7test | w7draw | w7feed
  | w8value | w9 | w10release | w10complete | wfRelease | wfRaise => cases h; rfl

theorem resetLine_frame {l : XLine} {s t : State} (h : resetLine l s = .next t) :
    t = { s with
      ph := t.ph, curv := t.curv, kind := t.kind, fop := t.fop, lastOp := t.lastOp, errAddr := t.errAddr } := by
  cases l <;> cases h <;> rfl

end Sys2Proof.Machine

/-! What a step can do: give a command, run its lines, or land a move of the host or of the environment
(70_reset_and_hazards.md R216 to R218). -/

namespace Sys2Proof.Machine

open Sys2Proof

/-- The line a command starts at. -/
def firstLine : Instr → Phase
  | .configure => .configure .c1
  | .read => .read .rd1
  | .write => .write .w1
  | .erase => .erase .e1
  | .reset => .reset .x1

/-- The commands that need a configuration inside `GeomOK` (log entry 6). -/
def needsGeometry : Instr → Bool
  | .configure | .reset => false
  | .read | .write | .erase => true

theorem ne_configure_of_needsGeometry {i : Instr} (h : needsGeometry i = true) : (i != .configure) = true := by
  cases i with
  | configure => cases h
  | read | write | erase | reset => rfl

theorem exec_of_allowed {s : State} {i : Instr} (hph : s.ph = .idle) (hcfgd : s.cfgd = (i != .configure))
    (hg : needsGeometry i = true → s.geomOK = true) : exec i s = start (firstLine i) s := by
  have hbusy : s.busy = false := by simp [State.busy, hph]
  cases i with
  | configure | reset => exact if_neg (by simp [hbusy, hcfgd])
  | read | write | erase => exact (if_neg (by simp [hbusy, hcfgd])).trans (if_pos (hg rfl))

theorem exec_of_outside_geometry {s : State} {i : Instr} (hph : s.ph = .idle) (hcfgd : s.cfgd = true)
    (hi : needsGeometry i = true) (hg : s.geomOK = false) : exec i s = .refused .outsideGeomOK := by
  have hbusy : s.busy = false := by simp [State.busy, hph]
  cases i with
  | configure | reset => cases hi
  | read | write | erase => exact (if_neg (by simp [hbusy, hcfgd])).trans (if_neg (by simp [hg]))

/-- The command `i` is allowed in `s` (30_encoding.md R77) and has a meaning there. -/
def State.Allows (s : State) (i : Instr) : Prop :=
  s.ph = .idle ∧ s.cfgd = (i != .configure) ∧ (needsGeometry i = true → s.geomOK = true)

theorem exec_of_allows {s : State} {i : Instr} (h : s.Allows i) : exec i s = start (firstLine i) s :=
  exec_of_allowed h.1 h.2.1 h.2.2

theorem exec_of_not_allowed {s : State} {i : Instr} (h : ¬ (s.ph = .idle ∧ s.cfgd = (i != .configure))) :
    exec i s = .next s.illegal := by
  by_cases hph : s.ph = .idle
  · by_cases hi : i = .configure
    · subst hi
      exact exec_configure_of_configured (by simpa [hph] using h)
    · have hne : (i != .configure) = true := by simpa using hi
      exact exec_of_not_configured (by simpa [hph, hne] using h) hi
  · exact exec_of_busy hph i

/-- A command is refused by `ILLCMD`, or it starts at its first line (R77). -/
theorem exec_cases {i : Instr} {s t : State} (h : exec i s = .next t) :
    (¬ (s.ph = .idle ∧ s.cfgd = (i != .configure)) ∧ t = s.illegal) ∨
      (s.Allows i ∧ start (firstLine i) s = .next t) := by
  by_cases ha : s.ph = .idle ∧ s.cfgd = (i != .configure)
  · by_cases hg : needsGeometry i = true → s.geomOK = true
    · exact .inr ⟨⟨ha.1, ha.2, hg⟩, exec_of_allowed ha.1 ha.2 hg ▸ h⟩
    · push Not at hg
      obtain ⟨hi, hg⟩ := hg
      have hcfgd : s.cfgd = true := ha.2.trans (ne_configure_of_needsGeometry hi)
      rw [exec_of_outside_geometry ha.1 hcfgd hi (by simpa using hg)] at h
      cases h
  · rw [exec_of_not_allowed ha] at h
    exact .inl ⟨ha, (Host.Outcome.next.inj h).symm⟩

/-! Host accesses. -/

/-- `t` is `s` but for `ILLCMD`, what the host has read, and the unspecified values used up. -/
def State.OnlyHost (s t : State) : Prop :=
  t = { s with
    illcmd := t.illcmd
    env := { s.env with unspecIx := t.env.unspecIx, reads := t.env.reads } }

/-- `s` with another `ILLCMD`, other moves to come, other values read and unspecified values used. -/
def State.withHost (s : State) (b : Bool) (ms : List Timed) (rs : List Word) (n : Nat) : State :=
  { s with illcmd := b, env := { s.env with moves := ms, reads := rs, unspecIx := n } }

theorem hostRead_onlyHost {off : Word} {s t : State} (h : hostRead off s = .next t) :
    s.OnlyHost t ∧ t.illcmd = s.illcmd := by
  simp only [hostRead] at h
  split at h
  · split at h
    · split at h <;> (cases h; exact ⟨rfl, rfl⟩)
    · cases h; exact ⟨rfl, rfl⟩
  · cases h

/-- What a host write can do: nothing, set `ILLCMD`, set a register, or start a command. -/
theorem hostWrite_cases {off v : Word} {s t : State} (h : hostWrite off v s = .next t) :
    t = s ∨ t = s.illegal ∨
      (s.ph = .idle ∧ s.cfgd = false ∧
        (t = { s with firstLoc := v } ∨ t = { s with pageCount := v } ∨ t = { s with recBytes := v })) ∨
      (s.ph = .idle ∧ ∃ i, t = { s with wrec := s.wrec.set i v }) ∨
      ∃ i, s.Allows i ∧ start (firstLine i) s = .next t := by
  have hconfig : ∀ u, configWrite s u = .next t → t = s.illegal ∨ (s.ph = .idle ∧ s.cfgd = false ∧ t = u) := by
    intro u hu
    by_cases hill : s.cfgd = true ∨ s.ph ≠ .idle
    · rw [configWrite_of_illegal hill] at hu
      exact .inl (Host.Outcome.next.inj hu).symm
    · push Not at hill
      rw [configWrite, if_neg (by simp [State.busy, hill])] at hu
      exact .inr ⟨hill.2, by simpa using hill.1, (Host.Outcome.next.inj hu).symm⟩
  unfold hostWrite at h
  split at h
  · split at h
    · cases hw : decode v with
      | error e =>
        rw [commandWrite_of_error hw] at h
        exact .inr (.inl (Host.Outcome.next.inj h).symm)
      | ok i =>
        rw [commandWrite_of_decode hw] at h
        obtain ⟨-, rfl⟩ | hstart := exec_cases h
        · exact .inr (.inl rfl)
        · exact .inr (.inr (.inr (.inr ⟨i, hstart⟩)))
    · obtain rfl | ⟨hph, hcfgd, rfl⟩ := hconfig _ h
      · exact .inr (.inl rfl)
      · exact .inr (.inr (.inl ⟨hph, hcfgd, .inl rfl⟩))
    · obtain rfl | ⟨hph, hcfgd, rfl⟩ := hconfig _ h
      · exact .inr (.inl rfl)
      · exact .inr (.inr (.inl ⟨hph, hcfgd, .inr (.inl rfl)⟩))
    · obtain rfl | ⟨hph, hcfgd, rfl⟩ := hconfig _ h
      · exact .inr (.inl rfl)
      · exact .inr (.inr (.inl ⟨hph, hcfgd, .inr (.inr rfl)⟩))
    · rename_i i _
      split at h
      · exact .inr (.inl (Host.Outcome.next.inj h).symm)
      · cases h
        exact .inr (.inr (.inr (.inl ⟨by simpa [State.busy] using ‹¬ s.busy = true›, i, rfl⟩)))
    all_goals exact .inl (Host.Outcome.next.inj h).symm
  · cases h

theorem hostWrite_of_busy {off v : Word} {s t : State} (hs : s.ph ≠ .idle) (h : hostWrite off v s = .next t) :
    t = s ∨ t = s.illegal := by
  obtain h | h | ⟨h, -⟩ | ⟨h, -⟩ | ⟨i, ⟨h, -⟩, -⟩ := hostWrite_cases h
  · exact .inl h
  · exact .inr h
  all_goals exact absurd h hs

/-- What lands while a command runs, power loss aside, leaves it alone (30_encoding.md R77, 20_memory.md R67). -/
theorem land_onlyHost {m : Move} {s t : State} (hs : s.ph ≠ .idle) (hm : m ≠ .powerLoss)
    (h : land m s = .next t) : s.OnlyHost t := by
  cases m with
  | hostRead off => exact (hostRead_onlyHost h).1
  | hostWrite off v =>
    obtain rfl | rfl := hostWrite_of_busy hs h <;> rfl
  | setFlash addr v =>
    rw [land, setFlash, if_pos ((busy_iff s).2 hs)] at h
    cases h
  | powerLoss => exact absurd rfl hm

theorem setFlash_next {addr v : Word} {s t : State} (h : setFlash addr v s = .next t) :
    s.ph = .idle ∧ addr.toNat % 4 = 0 ∧ t = s.setMem (s.mem.writeWord addr v) := by
  unfold setFlash at h
  split at h
  · cases h
  · split at h
    · exact ⟨by simpa [State.busy] using ‹¬ s.busy = true›, (aligned_iff addr).1 ‹_›,
        (Host.Outcome.next.inj h).symm⟩
    · cases h

/-! Steps. -/

theorem step_cases {s t : State} (h : step s = .next t) :
    (s.waiting = false ∧ run lineLimit s = .next t) ∨ t = s ∨
      ∃ m ms, s.env.moves = m :: ms ∧ s.waiting = true ∧
        land m.move { s with env := { s.env with moves := ms } } = .next t := by
  unfold step stepMachine at h
  split at h
  · split at h
    · exact .inr (.inl (Host.Outcome.next.inj h).symm)
    · exact .inr (.inr ⟨_, _, ‹_›, ‹_›, h⟩)
  · exact .inl ⟨by simpa using ‹¬ s.waiting = true›, h⟩

/-- A line's end brings the next move nearer, and changes nothing else. -/
theorem elapse_eq (s : State) :
    s.elapse = s.withHost s.illcmd s.elapse.env.moves s.env.reads s.env.unspecIx := by
  unfold State.elapse
  split <;> rfl

theorem busy_of_not_waiting {s : State} (h : s.waiting = false) : s.ph ≠ .idle ∧ s.hung = false := by
  simp only [State.waiting, Bool.or_eq_false_iff, beq_eq_false_iff_ne, ne_eq] at h
  exact h.1

section

variable {P : State → Prop}
  (hhost : ∀ s b ms rs n, P s → P (s.withHost b ms rs n))
  (htick : ∀ s t, P s → s.ph ≠ .idle → s.hung = false → tick s = .next t → P t)
include hhost htick

/-- What the host and the environment have no part in, and every line keeps, holds after a run of lines. -/
theorem run_keeps_of_tick {n : Nat} {s t : State} (hs : P s) (h : run n s = .next t) : P t := by
  refine run_keeps (fun u v hu hw hv => ?_) hs h
  obtain ⟨hbusy, hhung⟩ := busy_of_not_waiting hw
  rw [elapse_eq]
  exact hhost v _ _ _ _ (htick u v hu hbusy hhung hv)

/-- The step of a running command that does not lose power runs lines or lands a move that leaves it alone. -/
theorem step_keeps_of_busy {s t : State} (hs : P s) (hbusy : s.ph ≠ .idle) (hpower : s.losesPower = false)
    (h : step s = .next t) : P t := by
  obtain ⟨-, hrun⟩ | rfl | ⟨m, ms, hm, hw, hland⟩ := step_cases h
  · exact run_keeps_of_tick hhost htick hs hrun
  · exact hs
  · have hne : m.move ≠ .powerLoss := by
      intro hloss
      simp [State.losesPower, hw, hm, hloss] at hpower
    rw [land_onlyHost (s := { s with env := { s.env with moves := ms } }) hbusy hne hland]
    exact hhost s _ ms _ _ hs

/-- Along the course of a command: what holds where the command is not allowed and where it starts, and is
kept by its lines. -/
theorem course_keeps_of_tick {s t : State} {i : Instr} {n : Nat} 
    (hill : ¬ (s.ph = .idle ∧ s.cfgd = (i != .configure)) → P s)
    (hstart : s.Allows i → P (s.goto (firstLine i))) (h : s.Course i n t) : P t := by
  refine course_keeps (fun u hu => ?_) (fun u v hu hbusy hpower hv =>
    step_keeps_of_busy hhost htick hu hbusy hpower hv) h
  obtain ⟨hnot, rfl⟩ | ⟨ha, hu⟩ := exec_cases hu
  · exact hhost s true _ _ _ (hill hnot)
  · exact run_keeps_of_tick hhost htick (hstart ha) hu

/-- What every line and every move keeps, every step keeps. -/
theorem step_keeps {s t : State} (hstart : ∀ s i, P s → s.Allows i → P (s.goto (firstLine i)))
    (hreg : ∀ s v, P s → s.ph = .idle → s.cfgd = false →
      P { s with firstLoc := v } ∧ P { s with pageCount := v } ∧ P { s with recBytes := v })
    (hwrec : ∀ s i v, P s → s.ph = .idle → P { s with wrec := s.wrec.set i v })
    (hflash : ∀ s addr v, P s → s.ph = .idle → P (s.setMem (s.mem.writeWord addr v)))
    (hpower : ∀ s, P s → P s.powerLoss) (hs : P s) (h : step s = .next t) : P t := by
  obtain ⟨-, hrun⟩ | rfl | ⟨m, ms, -, -, hland⟩ := step_cases h
  · exact run_keeps_of_tick hhost htick hs hrun
  · exact hs
  have hu := hhost s s.illcmd ms s.env.reads s.env.unspecIx hs
  cases hmove : m.move with
  | hostRead off =>
    rw [hmove] at hland
    rw [(hostRead_onlyHost hland).1]
    exact hhost _ _ ms _ _ hu
  | hostWrite off v =>
    rw [hmove] at hland
    obtain rfl | rfl | ⟨hph, hcfgd, hset⟩ | ⟨hph, i, rfl⟩ | ⟨i, ha, hrun⟩ := hostWrite_cases hland
    · exact hu
    · exact hhost _ true ms _ _ hu
    · obtain ⟨hfirst, hcount, hbytes⟩ := hreg _ v hu hph hcfgd
      obtain rfl | rfl | rfl := hset
      · exact hfirst
      · exact hcount
      · exact hbytes
    · exact hwrec _ i v hu hph
    · exact run_keeps_of_tick hhost htick (hstart _ i hu ha) hrun
  | setFlash addr v =>
    rw [hmove] at hland
    obtain ⟨hph, -, rfl⟩ := setFlash_next hland
    exact hflash _ addr v hu hph
  | powerLoss =>
    rw [hmove] at hland
    cases hland
    exact hpower _ hu

end

end Sys2Proof.Machine

/-! What no line changes, and what a line or a power loss can leave in the flash (20_memory.md R47, R48,
70_reset_and_hazards.md R191). -/

namespace Sys2Proof.Machine

open Sys2Proof

/-- No line changes the hardware, the host's registers, `ILLCMD`, or what is still to come from the host
and the environment. -/
theorem tick_frame {s t : State} (h : tick s = .next t) :
    t = { t with
      hw := s.hw, wrec := s.wrec, firstLoc := s.firstLoc, pageCount := s.pageCount, recBytes := s.recBytes
      illcmd := s.illcmd
      env := { t.env with
        moves := s.env.moves, replies := s.env.replies, draws := s.env.draws, reads := s.env.reads } } := by
  unfold tick at h
  split at h
  case h_1 => cases h; rfl
  case h_2 => rw [configureLine_frame h]
  case h_3 => rw [scanLine_frame h]
  case h_4 => rw [readLine_frame h]
  case h_5 => rw [writeLine_frame h]; rfl
  case h_6 => rw [eraseLine_frame h]; rfl
  case h_7 => rw [resetLine_frame h]

theorem tick_hw {s t : State} (h : tick s = .next t) : t.hw = s.hw := by rw [tick_frame h]

theorem tick_moves {s t : State} (h : tick s = .next t) : t.env.moves = s.env.moves := by
  rw [tick_frame h]

/-- Settles O46: no line and no move sets the hardware's parameters. -/
theorem stepKeepsTheHardware : Obligations.StepKeepsTheHardware := by
  intro s t h
  refine step_keeps (P := fun u => u.hw = s.hw) (fun u b ms rs n hu => hu)
    (fun u v hu _ _ hv => (tick_hw hv).trans hu) ?start ?reg ?wrec ?flash ?power rfl h
  case start => exact fun u i hu _ => hu
  case reg => exact fun u v hu _ _ => ⟨hu, hu, hu⟩
  case wrec => exact fun u i v hu _ => hu
  case flash => exact fun u a v hu _ => hu
  case power => exact fun u hu => hu

/-! The flash. -/

/-- `PH` names a page erase, of the page at `page`. -/
def State.Erases (s : State) (page : Word) : Prop :=
  (s.ph = .write .w3erase ∧ page = s.wk.nloc) ∨ (s.ph = .erase .e3erase ∧ page = s.pageAddr s.wk.i)

/-- The flash is `m` where it was that of `s`: as it was, or with the word written that `PH` programs, or
with the page filled that `PH` erases. -/
def State.FlashAfter (s : State) (m : Memory) : Prop :=
  m = s.mem ∨ (s.ph.programs = true ∧ ∃ v, m = s.mem.writeWord s.wk.a v) ∨
    ∃ page f, s.Erases page ∧ m = s.mem.fillWords page f s.deviceWords

theorem programNext_flashAfter {v : Word} {l : WLine} {s t : State} (hp : s.ph.programs = true)
    (h : programNext v l s = .next t) : s.FlashAfter t.mem := by
  obtain ⟨-, ⟨-, rfl⟩ | ⟨ok, -, rfl⟩⟩ := memWrite_next h
  · exact .inl rfl
  · exact .inr (.inl ⟨hp, _, programmed_mem _ _ _ _⟩)

theorem flashErase_flashAfter {page : Word} {f g : State → State} {s t : State} (hp : s.Erases page)
    (h : flashErase page f g s = .next t) (hf : ∀ u, (f u).mem = u.mem) (hg : ∀ u, (g u).mem = u.mem) :
    s.FlashAfter t.mem := by
  obtain ⟨-, ⟨-, rfl⟩ | ⟨ok, -, rfl⟩⟩ := flashErase_next h
  · exact .inl rfl
  · cases ok
    · exact .inr (.inr ⟨page, _, hp, (hg _).trans (erased_mem _ _ _)⟩)
    · exact .inr (.inr ⟨page, _, hp, (hf _).trans (erased_mem _ _ _)⟩)

theorem writeLine_flashAfter {l : WLine} {s t : State} (hp : s.ph = .write l) (h : writeLine l s = .next t) :
    s.FlashAfter t.mem := by
  cases l with
  | w3erase => exact flashErase_flashAfter (.inl ⟨hp, rfl⟩) h (fun _ => rfl) (fun _ => rfl)
  | w4 => obtain ⟨-, rfl⟩ | ⟨ok, -, rfl⟩ := lockAcquire_next h <;> exact .inl rfl
  | w5program | w7program | w8program => exact programNext_flashAfter (by rw [hp]; rfl) h
  | w6program =>
    simp only [writeLine] at h
    split at h
    · exact programNext_flashAfter (by rw [hp]; rfl) h
    · cases h
  | w1 | w2 | w3 | w3raise | w5reset | w5feed | w6start | w6test | w6feed | w7start | w7test | w7draw | w7feed
  | w8value | w9 | w10release | w10complete | wfRelease | wfRaise => cases h; exact .inl rfl

theorem eraseLine_flashAfter {l : ELine} {s t : State} (hp : s.ph = .erase l) (h : eraseLine l s = .next t) :
    s.FlashAfter t.mem := by
  cases l with
  | e2 => obtain ⟨-, rfl⟩ | ⟨ok, -, rfl⟩ := lockAcquire_next h <;> exact .inl rfl
  | e3erase => exact flashErase_flashAfter (.inr ⟨hp, rfl⟩) h (fun _ => rfl) (fun _ => rfl)
  | e1 | e3start | e3test | e3release | e3raise | e4release | e4complete => cases h; exact .inl rfl

theorem tick_flashAfter {s t : State} (h : tick s = .next t) : s.FlashAfter t.mem := by
  unfold tick at h
  split at h
  case h_1 => cases h; exact .inl rfl
  case h_2 => exact .inl (by rw [configureLine_frame h])
  case h_3 => exact .inl (by rw [scanLine_frame h])
  case h_4 => exact .inl (by rw [readLine_frame h])
  case h_5 hp => exact writeLine_flashAfter hp h
  case h_6 hp => exact eraseLine_flashAfter hp h
  case h_7 => exact .inl (by rw [resetLine_frame h])

/-! Power loss in the middle of a flash operation. -/

theorem powerLoss_mem (s : State) : s.powerLoss.mem = s.cutFlash.mem := rfl

theorem cutFlash_of_not_hung {s : State} (h : s.hung = false) : s.cutFlash = s := by
  simp [State.cutFlash, h]

theorem cutFlash_of_programs {s : State} (hh : s.hung = true) (hp : s.ph.programs = true) :
    s.cutFlash = (s.setMem (s.mem.writeWord s.wk.a (s.env.drawAt 0))).useDraws 1 := by
  unfold Phase.programs at hp
  unfold State.cutFlash
  rw [if_pos hh]
  split at hp
  case h_5 => cases hp
  all_goals (rename_i hph; rw [hph])

theorem cutFlash_of_erases {s : State} {page : Word} (hh : s.hung = true) (hp : s.Erases page) :
    s.cutFlash = s.scramblePage page := by
  unfold State.cutFlash
  rw [if_pos hh]
  obtain ⟨hph, rfl⟩ | ⟨hph, rfl⟩ := hp <;> rw [hph]

theorem powerLoss_flashAfter (s : State) : s.FlashAfter s.powerLoss.mem := by
  rw [powerLoss_mem]
  by_cases hh : s.hung = true
  · by_cases hp : s.ph.programs = true
    · rw [cutFlash_of_programs hh hp]
      exact .inr (.inl ⟨hp, _, rfl⟩)
    · by_cases he : ∃ page, s.Erases page
      · obtain ⟨page, he⟩ := he
        rw [cutFlash_of_erases hh he]
        exact .inr (.inr ⟨page, _, he, rfl⟩)
      · refine .inl ?_
        unfold State.cutFlash
        rw [if_pos hh]
        split
        case h_5 hph => exact absurd ⟨_, .inl ⟨hph, rfl⟩⟩ he
        case h_6 hph => exact absurd ⟨_, .inr ⟨hph, rfl⟩⟩ he
        case h_7 => rfl
        all_goals (rename_i hph; exact absurd (by rw [hph]; rfl) hp)
  · rw [cutFlash_of_not_hung (by simpa using hh)]
    exact .inl rfl

theorem State.FlashAfter.wf {s : State} {m : Memory} (h : s.FlashAfter m) (hs : s.mem.wf = true) :
    m.wf = true := by
  obtain rfl | ⟨-, v, rfl⟩ | ⟨page, f, -, rfl⟩ := h
  · exact hs
  · exact writeWord_wf hs _ _
  · exact fillWords_wf hs _ _ _

/-- Settles O51: every change of the flash is by `writeWord` or `fillWords`, which keep the form. -/
theorem stepKeepsTheFlashCanonical : Obligations.StepKeepsTheFlashCanonical := by
  intro s t hs h
  refine step_keeps (P := fun u => u.mem.wf = true) (fun u b ms rs n hu => hu)
    (fun u v hu _ _ hv => (tick_flashAfter hv).wf hu) ?start ?reg ?wrec ?flash ?power hs h
  case start => exact fun u i hu _ => hu
  case reg => exact fun u v hu _ _ => ⟨hu, hu, hu⟩
  case wrec => exact fun u i v hu _ => hu
  case flash => exact fun u a v hu _ => writeWord_wf hu _ _
  case power => exact fun u hu => (powerLoss_flashAfter u).wf hu

end Sys2Proof.Machine

/-! The lock is held on the lines between `LockAcquire()` and `LockRelease()` (10_state.md R29). -/

namespace Sys2Proof.Machine

open Sys2Proof

theorem State.lockOk_iff (s : State) :
    s.lockOk = true ↔ s.lockh = s.ph.holdsLock ∧ s.ctrlHeld = s.ph.holdsLock := by
  simp only [State.lockOk, Bool.and_eq_true, beq_iff_eq]
  constructor
  · rintro ⟨hl, hc⟩; exact ⟨hl, hc.trans hl⟩
  · rintro ⟨hl, hc⟩; exact ⟨hl, hc.trans hl.symm⟩

/-- A line that leaves the lock alone goes on at a line with the same duty. -/
theorem lockOk_of_same {s t : State} (hs : s.lockOk = true) (hl : t.lockh = s.lockh)
    (hc : t.ctrlHeld = s.ctrlHeld) (hp : t.ph.holdsLock = s.ph.holdsLock) : t.lockOk = true := by
  rw [State.lockOk_iff] at hs ⊢
  exact ⟨hl.trans (hs.1.trans hp.symm), hc.trans (hs.2.trans hp.symm)⟩

theorem goto_ite_holdsLock {c : Prop} [Decidable c] {p q : Phase} {b : Bool} (hp : p.holdsLock = b)
    (hq : q.holdsLock = b) (s : State) : (s.goto (if c then p else q)).ph.holdsLock = b := by
  rw [State.goto_ph]
  split <;> assumption

theorem lockAcquire_lockOk {p : Phase} {s t : State} (hs : s.lockOk = true)
    (hnext : p.holdsLock = true) (h : lockAcquire p s = .next t) : t.lockOk = true := by
  obtain ⟨-, rfl⟩ | ⟨ok, -, rfl⟩ := lockAcquire_next h
  · exact lockOk_of_same hs rfl rfl rfl
  · rw [State.lockOk_iff]
    exact ⟨hnext.symm, hnext.symm⟩

theorem memWrite_lockOk {addr v : Word} {p q : Phase} {s t : State} (hs : s.lockOk = true)
    (hok : p.holdsLock = s.ph.holdsLock) (hfail : q.holdsLock = s.ph.holdsLock)
    (h : memWrite addr v p q s = .next t) : t.lockOk = true := by
  obtain ⟨-, ⟨-, rfl⟩ | ⟨ok, -, rfl⟩⟩ := memWrite_next h
  · exact lockOk_of_same hs rfl rfl rfl
  · refine lockOk_of_same hs (by simp) (by simp) ?_
    rw [State.goto_ph]
    split <;> assumption

theorem flashErase_lockOk {addr : Word} {f g : State → State} {s t : State}
    (h : flashErase addr f g s = .next t) (hs : s.lockOk = true)
    (hf : ∀ u, (f u).lockh = u.lockh ∧ (f u).ctrlHeld = u.ctrlHeld ∧ (f u).ph.holdsLock = s.ph.holdsLock)
    (hg : ∀ u, (g u).lockh = u.lockh ∧ (g u).ctrlHeld = u.ctrlHeld ∧ (g u).ph.holdsLock = s.ph.holdsLock) :
    t.lockOk = true := by
  obtain ⟨-, ⟨-, rfl⟩ | ⟨ok, -, rfl⟩⟩ := flashErase_next h
  · exact lockOk_of_same hs rfl rfl rfl
  · have hcase : ∀ k : State → State,
        (∀ u, (k u).lockh = u.lockh ∧ (k u).ctrlHeld = u.ctrlHeld ∧ (k u).ph.holdsLock = s.ph.holdsLock) →
        (k ((s.useReply.erased addr ok).emit (.flashErase addr ok))).lockOk = true := by
      intro k hk
      obtain ⟨hl, hc, hp⟩ := hk ((s.useReply.erased addr ok).emit (.flashErase addr ok))
      exact lockOk_of_same hs (hl.trans (by simp)) (hc.trans (by simp)) hp
    cases ok
    · exact hcase g hg
    · exact hcase f hf

theorem lockOk_of_release {s : State} {p : Phase} (hp : p.holdsLock = false) :
    (s.lockRelease.goto p).lockOk = true := by
  rw [State.lockOk_iff]
  exact ⟨hp.symm, hp.symm⟩

theorem writeLine_lockOk {l : WLine} {s t : State} (hp : s.ph = .write l) (hs : s.lockOk = true)
    (h : writeLine l s = .next t) : t.lockOk = true := by
  cases l with
  | w3erase => exact flashErase_lockOk h hs (fun u => ⟨rfl, rfl, hp ▸ rfl⟩) (fun u => ⟨rfl, rfl, hp ▸ rfl⟩)
  | w4 => exact lockAcquire_lockOk hs rfl h
  | w5program | w7program | w8program => exact memWrite_lockOk hs (hp ▸ rfl) (hp ▸ rfl) h
  | w6program =>
    simp only [writeLine] at h
    split at h
    · exact memWrite_lockOk hs (hp ▸ rfl) (hp ▸ rfl) h
    · cases h
  | w10release | wfRelease => cases h; exact lockOk_of_release rfl
  | w1 | w3 | w6test | w7test => cases h; exact lockOk_of_same hs rfl rfl (hp ▸ goto_ite_holdsLock (by rfl) (by rfl) s)
  | w2 | w3raise | w5reset | w5feed | w6start | w6feed | w7start | w7draw | w7feed | w8value | w9 | w10complete
  | wfRaise => cases h; exact lockOk_of_same hs rfl rfl (hp ▸ rfl)

theorem eraseLine_lockOk {l : ELine} {s t : State} (hp : s.ph = .erase l) (hs : s.lockOk = true)
    (h : eraseLine l s = .next t) : t.lockOk = true := by
  cases l with
  | e2 => exact lockAcquire_lockOk hs rfl h
  | e3erase => exact flashErase_lockOk h hs (fun u => ⟨rfl, rfl, hp ▸ rfl⟩) (fun u => ⟨rfl, rfl, hp ▸ rfl⟩)
  | e3release | e4release => cases h; exact lockOk_of_release rfl
  | e3test => cases h; exact lockOk_of_same hs rfl rfl (hp ▸ goto_ite_holdsLock (by rfl) (by rfl) s)
  | e1 | e3start | e3raise | e4complete => cases h; exact lockOk_of_same hs rfl rfl (hp ▸ rfl)

/-! The other commands never hold the lock. -/

theorem configureLine_lockOk {l : CLine} {s t : State} (hp : s.ph = .configure l) (hs : s.lockOk = true)
    (h : configureLine l s = .next t) : t.lockOk = true := by
  cases l with
  | c1 =>
    simp only [configureLine, raise] at h
    split at h <;> (cases h; exact lockOk_of_same hs rfl rfl (hp ▸ rfl))
  | c2 | c3 | c4 | c5 | c6 => cases h; exact lockOk_of_same hs rfl rfl (hp ▸ rfl)

theorem Caller.found_holdsLock (c : Caller) : c.found.holdsLock = false := by cases c <;> rfl

theorem Caller.notFound_holdsLock (c : Caller) : c.notFound.holdsLock = false := by cases c <;> rfl

theorem scanLine_lockOk {c : Caller} {l : ScanLine} {s t : State} (hp : s.ph = .scan c l) (hs : s.lockOk = true)
    (h : scanLine c l s = .next t) : t.lockOk = true := by
  have hfree : s.ph.holdsLock = false := by rw [hp]; rfl
  refine lockOk_of_same hs (by rw [scanLine_frame h]) (by rw [scanLine_frame h]) ?_
  rw [hfree]
  cases l with
  | s4 | s7trailer =>
    rw [scanLine] at h
    obtain ⟨-, rfl⟩ := memRead_next h
    rfl
  | s7crc =>
    rw [scanLine] at h
    obtain ⟨-, rfl⟩ := crcBlock_next h
    rfl
  | s9 =>
    simp only [scanLine] at h
    split at h
    · cases h; exact c.found_holdsLock
    · cases h; exact c.notFound_holdsLock
  | s2 | s5 | s6 => cases h; exact goto_ite_holdsLock (by rfl) (by rfl) s
  | s1 | s3 | s7keep | s8 => cases h; rfl

theorem readLine_lockOk {l : RLine} {s t : State} (hp : s.ph = .read l) (hs : s.lockOk = true)
    (h : readLine l s = .next t) : t.lockOk = true := by
  have hfree : s.ph.holdsLock = false := by rw [hp]; rfl
  refine lockOk_of_same hs (by rw [readLine_frame h]) (by rw [readLine_frame h]) ?_
  rw [hfree]
  cases l with
  | rd1 => cases h; exact goto_ite_holdsLock (by rfl) (by rfl) s
  | rd2copy =>
    simp only [readLine] at h
    split at h
    · cases h; rfl
    · split at h
      · obtain ⟨-, rfl⟩ := memRead_next h
        exact hfree
      · cases h
  | rd1NotFound | rd2start | rd3 => cases h; rfl

theorem resetLine_lockOk {l : XLine} {s t : State} (hp : s.ph = .reset l) (hs : s.lockOk = true)
    (h : resetLine l s = .next t) : t.lockOk = true := by
  cases l <;> cases h <;> exact lockOk_of_same hs rfl rfl (hp ▸ rfl)

theorem tick_lockOk {s t : State} (hs : s.lockOk = true) (h : tick s = .next t) : t.lockOk = true := by
  unfold tick at h
  split at h
  case h_1 => cases h; exact hs
  case h_2 hp => exact configureLine_lockOk hp hs h
  case h_3 hp => exact scanLine_lockOk hp hs h
  case h_4 hp => exact readLine_lockOk hp hs h
  case h_5 hp => exact writeLine_lockOk hp hs h
  case h_6 hp => exact eraseLine_lockOk hp hs h
  case h_7 hp => exact resetLine_lockOk hp hs h

theorem powerLoss_lockOk (s : State) : s.powerLoss.lockOk = true := rfl

theorem goto_firstLine_lockOk {s : State} {i : Instr} (hs : s.lockOk = true) (hph : s.ph = .idle) :
    (s.goto (firstLine i)).lockOk = true :=
  lockOk_of_same hs rfl rfl (by rw [hph]; cases i <;> rfl)

/-- Settles O52: `tick_lockOk` for the lines; every move leaves the lock and the phase alone, starts a
command at a line without it, or is a power loss. -/
theorem stepKeepsTheLockDiscipline : Obligations.StepKeepsTheLockDiscipline := by
  intro s t hs h
  have ht : t.lockOk = true := by
    refine step_keeps (P := fun u => u.lockOk = true) (fun u b ms rs n hu => hu)
      (fun u v hu _ _ hv => tick_lockOk hu hv) ?start ?reg ?wrec ?flash ?power hs h
    case start => exact fun u i hu ha => goto_firstLine_lockOk hu ha.1
    case reg => exact fun u v hu _ _ => ⟨hu, hu, hu⟩
    case wrec => exact fun u i v hu _ => hu
    case flash => exact fun u a v hu _ => hu
    case power => exact fun u _ => powerLoss_lockOk u
  refine ⟨ht, fun hidle => ?_⟩
  rw [State.lockOk_iff, hidle] at ht
  exact ht

end Sys2Proof.Machine

/-! Where the slots and the pages of the Region lie (20_memory.md R42, R44). -/

namespace Sys2Proof.Machine

open Sys2Proof

/-! Words after an address. -/

@[simp] theorem wordAddr_zero (loc : Word) : wordAddr loc 0 = loc := by simp [wordAddr]

theorem wordAddr_add (loc : Word) (j k : Nat) : wordAddr (wordAddr loc j) k = wordAddr loc (j + k) := by
  simp [wordAddr, Nat.mul_add, BitVec.ofNat_add, BitVec.add_assoc]

theorem add_four (loc : Word) : loc + 4 = wordAddr loc 1 := rfl

theorem add_four_mul (loc i : Word) : loc + 4 * i = wordAddr loc i.toNat := by
  simp [wordAddr, BitVec.ofNat_mul]

theorem toNat_add_one {i n : Word} (h : i.toNat < n.toNat) : (i + 1).toNat = i.toNat + 1 := by
  have := n.isLt
  rw [BitVec.toNat_add]
  exact Nat.mod_eq_of_lt (Nat.lt_of_le_of_lt h this)

/-! Slots and pages. -/

section

variable {s : State} (hg : s.geomOK = true)
include hg

theorem four_dvd_pageSize : 4 ∣ s.pageSize.toNat := by
  have hle := (State.geomFacts hg).eight_le_pageSize
  obtain ⟨k, hk⟩ := (State.geomFacts hg).pageSize_pow
  rw [hk] at hle ⊢
  exact two_pow_dvd_of_le (j := 2) (by omega)

theorem four_dvd_firstLoc : 4 ∣ s.firstLoc.toNat :=
  (four_dvd_pageSize hg).trans (State.geomFacts hg).pageSize_dvd_firstLoc

/-- Page `p` of the Region lies `p` page sizes after its start (R98). -/
theorem pageAddr_toNat {p : Nat} (hp : p < s.pageCount.toNat) :
    (s.pageAddr (BitVec.ofNat 32 p)).toNat = s.firstLoc.toNat + p * s.pageSize.toNat := by
  have hle : (p + 1) * s.pageSize.toNat ≤ s.pageCount.toNat * s.pageSize.toNat := Nat.mul_le_mul_right _ hp
  have hend := (State.geomFacts hg).regionEnd_le
  have hlt := (State.geomFacts hg).region_lt
  have hpos := pageSize_pos hg
  rw [Nat.succ_mul] at hle
  rw [State.pageAddr, BitVec.toNat_add, BitVec.toNat_mul, BitVec.toNat_ofNat,
    Nat.mod_eq_of_lt (hp.trans s.pageCount.isLt), Nat.mod_eq_of_lt (a := p * _) (by omega), Nat.mod_eq_of_lt (by omega)]

theorem pageAddr_dvd {p : Nat} (hp : p < s.pageCount.toNat) :
    s.pageSize.toNat ∣ (s.pageAddr (BitVec.ofNat 32 p)).toNat := by
  rw [pageAddr_toNat hg hp]
  exact Nat.dvd_add (State.geomFacts hg).pageSize_dvd_firstLoc (Nat.dvd_mul_left _ _)

/-- A page of the Region ends where the Region ends, or before. -/
theorem pageAddr_end_le {p : Nat} (hp : p < s.pageCount.toNat) :
    (s.pageAddr (BitVec.ofNat 32 p)).toNat + s.pageSize.toNat ≤
      s.firstLoc.toNat + s.pageCount.toNat * s.pageSize.toNat := by
  have hle : (p + 1) * s.pageSize.toNat ≤ s.pageCount.toNat * s.pageSize.toNat := Nat.mul_le_mul_right _ hp
  rw [Nat.succ_mul] at hle
  rw [pageAddr_toNat hg hp]
  omega

theorem payloadWords_le_kmax : s.payloadWords.toNat ≤ s.hw.kmax := by
  have hle := (State.geomFacts hg).recBytes_le_buffers
  rw [payloadWords_toNat]
  omega

variable (hl : s.latched = true)
include hl

theorem isPage_of_dvd {addr : Word} (h : s.pageSize.toNat ∣ addr.toNat) : s.isPage addr = true := by
  obtain ⟨-, hsize, -⟩ := s.latched_iff.1 hl
  rw [isPage_iff, ← hsize]
  exact ⟨(show 4 ≤ 8 by decide).trans (State.geomFacts hg).eight_le_pageSize,
    Nat.mod_eq_zero_of_dvd (four_dvd_pageSize hg), Nat.mod_eq_zero_of_dvd h⟩

theorem deviceWords_eq : 4 * s.deviceWords = s.pageSize.toNat := by
  obtain ⟨-, hsize, -⟩ := s.latched_iff.1 hl
  rw [State.deviceWords, ← hsize]
  exact Nat.mul_div_cancel' (four_dvd_pageSize hg)

theorem slotWords_mul_four : 4 * s.slotWords.toNat = s.slotBytes.toNat := by
  rw [slotWords_toNat]
  exact Nat.mul_div_cancel' (four_dvd_slotBytes hg hl)

theorem slotLoc_end_le {i : Nat} (hi : i < s.entryCount.toNat) :
    i * s.slotBytes.toNat + s.slotBytes.toNat ≤ s.pageCount.toNat * s.pageSize.toNat := by
  have hle : (i + 1) * s.slotBytes.toNat ≤ s.entryCount.toNat * s.slotBytes.toNat := Nat.mul_le_mul_right _ hi
  rwa [entryCount_mul_slotBytes hg hl, Nat.succ_mul] at hle

/-- Slot `i` lies `i` slot sizes after the start of the Region (R95). -/
theorem slotLoc_toNat {i : Nat} (hi : i < s.entryCount.toNat) :
    (s.slotLoc i).toNat = s.firstLoc.toNat + i * s.slotBytes.toNat := by
  have hoff := slotLoc_sub_firstLoc hg hl hi.le
  have hend := slotLoc_end_le hg hl hi
  have hregion := (State.geomFacts hg).regionEnd_le
  have hpos := slotBytes_pos hg hl
  have hadd : s.slotLoc i = s.firstLoc + (s.slotLoc i - s.firstLoc) := by rw [add_sub_cancel]
  rw [hadd, BitVec.toNat_add, hoff, Nat.mod_eq_of_lt (by omega)]

theorem isSlot_slotLoc {i : Nat} (hi : i < s.entryCount.toNat) : s.isSlot (s.slotLoc i) = true := by
  have hend := slotLoc_end_le hg hl hi
  have hpos := slotBytes_pos hg hl
  simp only [State.isSlot, Bool.and_eq_true, decide_eq_true_eq, beq_iff_eq, slotLoc_sub_firstLoc hg hl hi.le]
  exact ⟨by omega, Nat.mul_mod_left _ _⟩

/-- The slots of the Region are the slots `0 .. entryCount - 1`. -/
theorem isSlot_iff (loc : Word) : s.isSlot loc = true ↔ ∃ i, i < s.entryCount.toNat ∧ loc = s.slotLoc i := by
  constructor
  · intro h
    simp only [State.isSlot, Bool.and_eq_true, decide_eq_true_eq, beq_iff_eq] at h
    obtain ⟨hlt, hmod⟩ := h
    obtain ⟨i, hi⟩ := Nat.dvd_of_mod_eq_zero hmod
    rw [Nat.mul_comm] at hi
    have hicount : i < s.entryCount.toNat := by
      rw [hi, ← entryCount_mul_slotBytes hg hl] at hlt
      exact Nat.lt_of_mul_lt_mul_right hlt
    refine ⟨i, hicount, ?_⟩
    have hoff : loc - s.firstLoc = s.slotLoc i - s.firstLoc :=
      BitVec.eq_of_toNat_eq (hi.trans (slotLoc_sub_firstLoc hg hl hicount.le).symm)
    exact sub_left_injective hoff
  · rintro ⟨i, hi, rfl⟩
    exact isSlot_slotLoc hg hl hi

/-- A slot lies in the Region, whole, at an address that the slot size divides. -/
theorem isSlot_bounds {loc : Word} (h : s.isSlot loc = true) :
    s.firstLoc.toNat ≤ loc.toNat ∧
      loc.toNat + s.slotBytes.toNat ≤ s.firstLoc.toNat + s.pageCount.toNat * s.pageSize.toNat := by
  obtain ⟨i, hi, rfl⟩ := (isSlot_iff hg hl loc).1 h
  have hend := slotLoc_end_le hg hl hi
  rw [slotLoc_toNat hg hl hi]
  omega

theorem four_dvd_slot {loc : Word} (h : s.isSlot loc = true) : 4 ∣ loc.toNat := by
  obtain ⟨i, hi, rfl⟩ := (isSlot_iff hg hl loc).1 h
  rw [slotLoc_toNat hg hl hi]
  exact Nat.dvd_add (four_dvd_firstLoc hg) (dvd_mul_of_dvd_right (four_dvd_slotBytes hg hl) _)

/-- Word `k` of a slot: its address does not wrap. -/
theorem slotWord_toNat {loc : Word} (h : s.isSlot loc = true) {k : Nat} (hk : k < s.slotWords.toNat) :
    (wordAddr loc k).toNat = loc.toNat + 4 * k := by
  have hbounds := isSlot_bounds hg hl h
  have hend := (State.geomFacts hg).regionEnd_le
  have hwords := slotWords_mul_four hg hl
  exact wordAddr_toNat (by omega)

theorem slotWord_aligned {loc : Word} (h : s.isSlot loc = true) {k : Nat} (hk : k < s.slotWords.toNat) :
    (wordAddr loc k).toNat % 4 = 0 := by
  have hloc := four_dvd_slot hg hl h
  rw [slotWord_toNat hg hl h hk]
  omega

theorem slotWord_inRegion {loc : Word} (h : s.isSlot loc = true) {k : Nat} (hk : k < s.slotWords.toNat) :
    s.inRegion (wordAddr loc k).toNat := by
  have hbounds := isSlot_bounds hg hl h
  have hwords := slotWords_mul_four hg hl
  rw [slotWord_toNat hg hl h hk]
  exact ⟨by omega, by omega⟩

theorem isSlot_firstLoc : s.isSlot s.firstLoc = true := by
  simpa using isSlot_slotLoc hg hl (entryCount_pos hg hl)

/-- The ring never leaves the Region (R96). -/
theorem isSlot_nextLoc {loc : Word} (h : s.isSlot loc = true) : s.isSlot (s.nextLoc loc) = true := by
  obtain ⟨i, hi, rfl⟩ := (isSlot_iff hg hl loc).1 h
  rw [nextLoc_slotLoc hg hl hi]
  split
  · exact isSlot_firstLoc hg hl
  · exact isSlot_slotLoc hg hl (by omega)

/-- A slot at the start of a page lies in that page, which lies in the Region. -/
theorem pageStart_page_end_le {loc : Word} (h : s.isSlot loc = true) (hp : s.pageStart loc = true) :
    s.pageSize.toNat ∣ loc.toNat ∧
      loc.toNat + s.pageSize.toNat ≤ s.firstLoc.toNat + s.pageCount.toNat * s.pageSize.toNat := by
  have hdvd := (pageStart_iff_dvd hg loc).1 hp
  have hbounds := isSlot_bounds hg hl h
  have hpos := slotBytes_pos hg hl
  refine ⟨hdvd, ?_⟩
  obtain ⟨q, hq⟩ := hdvd
  obtain ⟨f, hf⟩ := (State.geomFacts hg).pageSize_dvd_firstLoc
  rw [hq, hf, Nat.mul_comm s.pageCount.toNat, ← Nat.mul_add] at hbounds ⊢
  have hlt : q < f + s.pageCount.toNat :=
    Nat.lt_of_mul_lt_mul_left (a := s.pageSize.toNat) (by omega)
  rw [← Nat.mul_succ]
  exact Nat.mul_le_mul_left _ hlt

/-- The words of a slot: header, payload, filler, trailer. -/
theorem slotWords_eq : s.slotWords.toNat = 1 + s.payloadWords.toNat + s.fillerCount.toNat + 1 := by
  have hroom := payloadWords_add_two_le hg hl
  have hfiller := fillerCount_toNat hg hl
  omega

theorem slotWords_sub_one_toNat : (s.slotWords - 1).toNat = s.slotWords.toNat - 1 := by
  have heq := slotWords_eq hg hl
  exact BitVec.toNat_sub_of_le (show (1 : Word).toNat ≤ s.slotWords.toNat by simp; omega)

theorem trailerLoc_eq (loc : Word) : s.trailerLoc loc = wordAddr loc (s.slotWords.toNat - 1) := by
  rw [State.trailerLoc, add_four_mul, slotWords_sub_one_toNat hg hl]

end

end Sys2Proof.Machine

/-! The invariant as facts with names, and what it says of the addresses each line passes to the flash. -/

namespace Sys2Proof.Machine

open Sys2Proof

/-- The invariant of the machine (`State.inv`), part by part. -/
structure State.Inv (s : State) : Prop where
  mem_wf : s.mem.wf = true
  lock : s.lockOk = true
  wrec_length : s.wrec.length = s.hw.kmax
  rrec_length : s.rrec.length = s.hw.kmax
  hung : s.hung = true → s.ph.mayHang = true
  latched : s.cfgd = true → s.latched = true
  cursor : s.curv = true → s.cfgd = true ∧ s.geomOK = true ∧ s.isSlot s.curLoc = true
  phase : s.phaseOk = true

theorem State.inv_iff (s : State) : s.inv = true ↔ s.Inv := by
  have himp : ∀ a b : Bool, (!a || b) = true ↔ (a = true → b = true) := by decide
  simp only [State.inv, State.buffersOk, State.hungOk, State.configOk, State.cursorOk, Bool.and_eq_true,
    beq_iff_eq, himp, and_assoc]
  constructor
  · rintro ⟨hm, hlock, hw, hr, hh, hl, hc, hp⟩
    exact ⟨hm, hlock, hw, hr, hh, hl, hc, hp⟩
  · rintro ⟨hm, hlock, hw, hr, hh, hl, hc, hp⟩
    exact ⟨hm, hlock, hw, hr, hh, hl, hc, hp⟩

/-- A configured block inside `GeomOK`, with what CONFIGURE latched. -/
structure State.Geom (s : State) : Prop where
  cfgd : s.cfgd = true
  ok : s.geomOK = true
  latched : s.latched = true

section

variable {s : State} (hs : s.Inv)
include hs

theorem State.Inv.geom_of_cursor (hc : s.curv = true) : s.Geom := by
  obtain ⟨hcfgd, hg, -⟩ := hs.cursor hc
  exact ⟨hcfgd, hg, hs.latched hcfgd⟩

theorem State.Inv.slot_of_cursor (hc : s.curv = true) : s.isSlot s.curLoc = true := (hs.cursor hc).2.2

theorem State.Inv.scan {c : Caller} {l : ScanLine} (hp : s.ph = .scan c l) : s.Geom ∧ s.scanOk l = true := by
  have h := hs.phase
  simp only [State.phaseOk, hp, Bool.and_eq_true] at h
  exact ⟨⟨h.1.1, h.1.2, hs.latched h.1.1⟩, h.2⟩

theorem State.Inv.read {l : RLine} (hp : s.ph = .read l) : s.Geom ∧ s.readOk l = true := by
  have h := hs.phase
  simp only [State.phaseOk, hp, Bool.and_eq_true] at h
  exact ⟨⟨h.1.1, h.1.2, hs.latched h.1.1⟩, h.2⟩

theorem State.Inv.write {l : WLine} (hp : s.ph = .write l) : s.Geom ∧ s.writeOk l = true := by
  have h := hs.phase
  simp only [State.phaseOk, hp, Bool.and_eq_true] at h
  exact ⟨⟨h.1.1, h.1.2, hs.latched h.1.1⟩, h.2⟩

theorem State.Inv.erase {l : ELine} (hp : s.ph = .erase l) : s.Geom ∧ s.eraseOk l = true := by
  have h := hs.phase
  simp only [State.phaseOk, hp, Bool.and_eq_true] at h
  exact ⟨⟨h.1.1, h.1.2, hs.latched h.1.1⟩, h.2⟩

theorem State.Inv.configure {l : CLine} (hp : s.ph = .configure l) : s.configureOk l = true := by
  have h := hs.phase
  simpa only [State.phaseOk, hp] using h

/-! The lines of `SCAN` read slot `i`. -/

theorem State.Inv.scan_index {c : Caller} {l : ScanLine} (hp : s.ph = .scan c l)
    (hl : l ∈ [ScanLine.s4, .s5, .s6, .s7crc, .s7trailer, .s7keep]) :
    s.candidateOk = true ∧ s.wk.i < s.entryCount ∧ s.wk.a = s.slotAddr s.wk.i := by
  obtain ⟨-, h⟩ := hs.scan hp
  simp only [List.mem_cons, List.not_mem_nil, or_false] at hl
  rcases hl with rfl | rfl | rfl | rfl | rfl | rfl <;>
    simpa only [State.scanOk, Bool.and_eq_true, decide_eq_true_eq, beq_iff_eq, and_assoc] using h

theorem State.Inv.scan_slot {c : Caller} {l : ScanLine} (hp : s.ph = .scan c l)
    (hl : l ∈ [ScanLine.s4, .s5, .s6, .s7crc, .s7trailer, .s7keep]) : s.isSlot s.wk.a = true := by
  obtain ⟨-, hi, ha⟩ := hs.scan_index hp hl
  obtain ⟨hg, -⟩ := hs.scan hp
  rw [ha]
  simpa [State.slotLoc] using isSlot_slotLoc hg.ok hg.latched hi

/-! READ copies the payload words of the Cursor's slot. -/

theorem State.Inv.copy_index (hp : s.ph = .read .rd2copy) :
    s.curv = true ∧ s.wk.i.toNat ≤ s.payloadWords.toNat := by
  obtain ⟨-, h⟩ := hs.read hp
  simpa only [State.readOk, Bool.and_eq_true, decide_eq_true_eq, BitVec.le_def] using h

theorem State.Inv.copy_index_lt (hp : s.ph = .read .rd2copy) (hne : s.wk.i ≠ s.payloadWords) :
    s.wk.i.toNat < s.payloadWords.toNat :=
  Nat.lt_of_le_of_ne (hs.copy_index hp).2 fun h => hne (BitVec.eq_of_toNat_eq h)

/-- The word READ copies is a word of the Cursor's slot. -/
theorem State.Inv.copy_word (hp : s.ph = .read .rd2copy) (hne : s.wk.i ≠ s.payloadWords) :
    ∃ k, k < s.slotWords.toNat ∧ s.curLoc + 4 + 4 * s.wk.i = wordAddr s.curLoc k := by
  obtain ⟨hg, -⟩ := hs.read hp
  have hlt := hs.copy_index_lt hp hne
  have hwords := slotWords_eq hg.ok hg.latched
  exact ⟨1 + s.wk.i.toNat, by omega, by rw [add_four, add_four_mul, wordAddr_add]⟩

/-! WRITE's loops over the payload and the filler. -/

theorem State.Inv.payload_index (hp : s.ph = .write .w6test) :
    s.wk.a = wordAddr s.wk.nloc (1 + s.wk.i.toNat) ∧ s.wk.i.toNat ≤ s.payloadWords.toNat := by
  obtain ⟨-, h⟩ := hs.write hp
  simp only [State.writeOk, Bool.and_eq_true, beq_iff_eq, decide_eq_true_eq, BitVec.le_def] at h
  exact ⟨by rw [h.1.2, add_four, add_four_mul, wordAddr_add], h.2⟩

theorem State.Inv.payload_index_lt {l : WLine} (hl : l = .w6program ∨ l = .w6feed) (hp : s.ph = .write l) :
    s.wk.a = wordAddr s.wk.nloc (1 + s.wk.i.toNat) ∧ s.wk.i.toNat < s.payloadWords.toNat := by
  obtain ⟨-, h⟩ := hs.write hp
  obtain rfl | rfl := hl <;>
    simp only [State.writeOk, Bool.and_eq_true, beq_iff_eq, decide_eq_true_eq, BitVec.lt_def] at h <;>
    exact ⟨by rw [h.1.2, add_four, add_four_mul, wordAddr_add], h.2⟩

theorem State.Inv.filler_index_lt {l : WLine} (hl : l = .w7draw ∨ l = .w7program ∨ l = .w7feed)
    (hp : s.ph = .write l) : s.wk.a = wordAddr s.wk.nloc (1 + s.payloadWords.toNat + s.wk.i.toNat) ∧
      s.wk.i.toNat < s.fillerCount.toNat := by
  obtain ⟨-, h⟩ := hs.write hp
  obtain rfl | rfl | rfl := hl <;>
    simp only [State.writeOk, Bool.and_eq_true, beq_iff_eq, decide_eq_true_eq, BitVec.lt_def] at h <;>
    exact ⟨by rw [h.1.2, add_four, add_four_mul, add_four_mul, wordAddr_add, wordAddr_add, Nat.add_assoc], h.2⟩

/-! A program writes a word of the slot at `NLOC`. -/

theorem State.Inv.program_word (hp : s.ph.programs = true) : s.Geom ∧ s.isSlot s.wk.nloc = true ∧
    ∃ k, k < s.slotWords.toNat ∧ s.wk.a = wordAddr s.wk.nloc k := by
  unfold Phase.programs at hp
  split at hp
  case h_5 => cases hp
  all_goals
    rename_i hph
    obtain ⟨hg, h⟩ := hs.write hph
    have hwords := slotWords_eq hg.ok hg.latched
    simp only [State.writeOk, Bool.and_eq_true, beq_iff_eq] at h
  · exact ⟨hg, h.1, 0, by omega, by rw [h.2, wordAddr_zero]⟩
  · obtain ⟨ha, hi⟩ := hs.payload_index_lt (.inl rfl) hph
    exact ⟨hg, h.1.1, _, by omega, ha⟩
  · obtain ⟨ha, hi⟩ := hs.filler_index_lt (.inr (.inl rfl)) hph
    exact ⟨hg, h.1.1, _, by omega, ha⟩
  · exact ⟨hg, h.1, s.slotWords.toNat - 1, by omega, by rw [h.2]; exact trailerLoc_eq hg.ok hg.latched _⟩

theorem State.Inv.program_aligned (hp : s.ph.programs = true) : s.wk.a.toNat % 4 = 0 := by
  obtain ⟨hg, hslot, k, hk, ha⟩ := hs.program_word hp
  rw [ha]
  exact slotWord_aligned hg.ok hg.latched hslot hk

/-! An erase is of a page of the Region. -/

/-- The page begins at a multiple of the page size and lies in the Region. -/
def State.RegionPage (s : State) (page : Word) : Prop :=
  s.pageSize.toNat ∣ page.toNat ∧ s.firstLoc.toNat ≤ page.toNat ∧
    page.toNat + s.pageSize.toNat ≤ s.firstLoc.toNat + s.pageCount.toNat * s.pageSize.toNat

theorem State.Inv.erases_page {page : Word} (hp : s.Erases page) : s.Geom ∧ s.RegionPage page := by
  obtain ⟨hph, rfl⟩ | ⟨hph, rfl⟩ := hp
  · obtain ⟨hg, h⟩ := hs.write hph
    simp only [State.writeOk, Bool.and_eq_true] at h
    obtain ⟨hdvd, hend⟩ := pageStart_page_end_le hg.ok hg.latched h.1 h.2
    exact ⟨hg, hdvd, (isSlot_bounds hg.ok hg.latched h.1).1, hend⟩
  · obtain ⟨hg, h⟩ := hs.erase hph
    have hi : s.wk.i.toNat < s.pageCount.toNat := by simpa only [State.eraseOk, decide_eq_true_eq, BitVec.lt_def] using h
    have hix : s.wk.i = BitVec.ofNat 32 s.wk.i.toNat := by simp
    rw [hix]
    refine ⟨hg, pageAddr_dvd hg.ok hi, ?_, pageAddr_end_le hg.ok hi⟩
    rw [pageAddr_toNat hg.ok hi]
    exact Nat.le_add_right _ _

theorem State.Inv.erases_isPage {page : Word} (hp : s.Erases page) : s.isPage page = true := by
  obtain ⟨hg, hdvd, -⟩ := hs.erases_page hp
  exact isPage_of_dvd hg.ok hg.latched hdvd

end

end Sys2Proof.Machine

/-! Inside the invariant no line faults (20_memory.md R42, R44). -/

namespace Sys2Proof.Machine

open Sys2Proof

theorem memRead_ne_fault {addr : Word} {s : State} {k : Word → State → State} (h : addr.toNat % 4 = 0) (f : Fault) :
    memRead addr s k ≠ .fault f := by
  rw [memRead_of_aligned h]
  nofun

theorem crcBlock_ne_fault {addr : Word} {n : Nat} {s : State} {k : Word → State → State}
    (h : addr.toNat % 4 = 0) (f : Fault) : crcBlock addr n s k ≠ .fault f := by
  rw [crcBlock_of_aligned h]
  nofun

theorem memWrite_ne_fault {addr v : Word} {p q : Phase} {s : State} (h : addr.toNat % 4 = 0) (f : Fault) :
    memWrite addr v p q s ≠ .fault f := by
  rw [memWrite_of_aligned h]
  split <;> nofun

theorem flashErase_ne_fault {addr : Word} {g k : State → State} {s : State} (h : s.isPage addr = true) (f : Fault) :
    flashErase addr g k s ≠ .fault f := by
  rw [flashErase_of_page h]
  split <;> nofun

theorem lockAcquire_ne_fault (p : Phase) (s : State) (f : Fault) : lockAcquire p s ≠ .fault f := by
  unfold lockAcquire
  split <;> nofun

section

variable {s : State} (hs : s.Inv)
include hs

theorem scanLine_ne_fault {c : Caller} {l : ScanLine} (hp : s.ph = .scan c l) (f : Fault) :
    scanLine c l s ≠ .fault f := by
  have hslot := hs.scan_slot hp
  obtain ⟨⟨-, hg, hl⟩, -⟩ := hs.scan hp
  cases l with
  | s4 =>
    have ha := four_dvd_slot hg hl (hslot (by decide))
    rw [scanLine]
    exact memRead_ne_fault (Nat.mod_eq_zero_of_dvd ha) f
  | s7crc =>
    have ha := four_dvd_slot hg hl (hslot (by decide))
    rw [scanLine]
    exact crcBlock_ne_fault (Nat.mod_eq_zero_of_dvd ha) f
  | s7trailer =>
    have hwords := slotWords_eq hg hl
    have ha := slotWord_aligned hg hl (hslot (by decide)) (k := s.slotWords.toNat - 1) (by omega)
    rw [← trailerLoc_eq hg hl] at ha
    rw [scanLine]
    exact memRead_ne_fault ha f
  | s1 | s2 | s3 | s5 | s6 | s7keep | s8 | s9 => nofun

theorem readLine_ne_fault {l : RLine} (hp : s.ph = .read l) (f : Fault) : readLine l s ≠ .fault f := by
  obtain ⟨⟨-, hg, hl⟩, -⟩ := hs.read hp
  cases l with
  | rd2copy =>
    simp only [readLine]
    split
    · nofun
    · have hi := hs.copy_index_lt hp ‹_›
      have hkmax := payloadWords_le_kmax hg
      obtain ⟨k, hk, ha⟩ := hs.copy_word hp ‹_›
      rw [if_pos (by rw [hs.rrec_length]; omega), ha]
      exact memRead_ne_fault (slotWord_aligned hg hl (hs.slot_of_cursor (hs.copy_index hp).1) hk) f
  | rd1 | rd1NotFound | rd2start | rd3 => nofun

/-- The payload index is inside `WREC`. -/
theorem payload_index_lt_wrec (hp : s.ph = .write .w6program) : s.wk.i.toNat < s.wrec.length := by
  obtain ⟨⟨-, hg, -⟩, -⟩ := hs.write hp
  obtain ⟨-, hi⟩ := hs.payload_index_lt (.inl rfl) hp
  have hkmax := payloadWords_le_kmax hg
  rw [hs.wrec_length]
  omega

theorem writeLine_ne_fault {l : WLine} (hp : s.ph = .write l) (f : Fault) : writeLine l s ≠ .fault f := by
  cases l with
  | w3erase => exact flashErase_ne_fault (hs.erases_isPage (.inl ⟨hp, rfl⟩)) f
  | w4 => exact lockAcquire_ne_fault _ s f
  | w5program | w7program | w8program => exact memWrite_ne_fault (hs.program_aligned (hp ▸ rfl)) f
  | w6program =>
    rw [writeLine, if_pos (payload_index_lt_wrec hs hp)]
    exact memWrite_ne_fault (hs.program_aligned (hp ▸ rfl)) f
  | w1 | w2 | w3 | w3raise | w5reset | w5feed | w6start | w6test | w6feed | w7start | w7test | w7draw | w7feed
  | w8value | w9 | w10release | w10complete | wfRelease | wfRaise => nofun

theorem eraseLine_ne_fault {l : ELine} (hp : s.ph = .erase l) (f : Fault) : eraseLine l s ≠ .fault f := by
  cases l with
  | e2 => exact lockAcquire_ne_fault _ s f
  | e3erase => exact flashErase_ne_fault (hs.erases_isPage (.inr ⟨hp, rfl⟩)) f
  | e1 | e3start | e3test | e3release | e3raise | e4release | e4complete => nofun

theorem tick_ne_fault (f : Fault) : tick s ≠ .fault f := by
  unfold tick
  split
  case h_1 => nofun
  case h_2 l _ =>
    cases l with
    | c1 => simp only [configureLine, raise]; split <;> nofun
    | c2 | c3 | c4 | c5 | c6 => nofun
  case h_3 hp => exact scanLine_ne_fault hs hp f
  case h_4 hp => exact readLine_ne_fault hs hp f
  case h_5 hp => exact writeLine_ne_fault hs hp f
  case h_6 hp => exact eraseLine_ne_fault hs hp f
  case h_7 l _ => cases l <;> nofun

end

end Sys2Proof.Machine

/-! The addresses of the flash events, and the lines that hang, inside the invariant. -/

namespace Sys2Proof.Machine

open Sys2Proof

/-- Word `k` of a slot of the Region: an address a flash access of the block may have. -/
theorem slotWord_access {s : State} (hg : s.Geom) {loc : Word} (hslot : s.isSlot loc = true) {k : Nat}
    (hk : k < s.slotWords.toNat) : (wordAddr loc k).toNat % 4 = 0 ∧ s.inRegion (wordAddr loc k).toNat :=
  ⟨slotWord_aligned hg.ok hg.latched hslot hk, slotWord_inRegion hg.ok hg.latched hslot hk⟩

/-- Settles O50: each line's event has the address `State.issues` says, and the invariant says of which
slot or page it is. -/
theorem flashAccessesLieInTheRegion : Obligations.FlashAccessesLieInTheRegion := by
  intro s t e hs htick he
  rw [State.inv_iff] at hs
  have hissue := tick_issues htick he
  cases e with
  | memRead a v =>
    obtain ⟨hp, hne, rfl⟩ | ⟨c, ⟨hp, rfl⟩ | ⟨hp, rfl⟩⟩ := hissue
    · obtain ⟨k, hk, ha⟩ := hs.copy_word hp hne
      rw [ha]
      exact slotWord_access (hs.read hp).1 (hs.slot_of_cursor (hs.copy_index hp).1) hk
    · obtain ⟨hg, -⟩ := hs.scan hp
      have hwords := slotWords_eq hg.ok hg.latched
      simpa using slotWord_access hg (hs.scan_slot hp (by decide)) (k := 0) (by omega)
    · obtain ⟨hg, -⟩ := hs.scan hp
      have hwords := slotWords_eq hg.ok hg.latched
      have haccess := slotWord_access hg (hs.scan_slot hp (by decide)) (k := s.slotWords.toNat - 1) (by omega)
      rwa [← trailerLoc_eq hg.ok hg.latched] at haccess
  | crcBlock a n v =>
    obtain ⟨⟨c, hp⟩, rfl, rfl⟩ := hissue
    obtain ⟨hg, -⟩ := hs.scan hp
    have hwords := slotWords_eq hg.ok hg.latched
    have hslot := hs.scan_slot hp (by decide)
    have hfirst := slotWord_access hg hslot (k := 0) (by omega)
    have hlast := slotWord_access hg hslot (k := s.slotWords.toNat - 1) (by omega)
    rw [slotWord_toNat hg.ok hg.latched hslot (by omega)] at hlast
    rw [wordAddr_zero] at hfirst
    rw [slotWords_sub_one_toNat hg.ok hg.latched]
    exact ⟨hfirst.1, hfirst.2, hlast.2⟩
  | memWrite a v ok =>
    obtain ⟨hp, rfl⟩ := hissue
    obtain ⟨hg, hslot, k, hk, ha⟩ := hs.program_word hp
    rw [ha]
    exact slotWord_access hg hslot hk
  | flashErase a ok =>
    obtain ⟨hg, hdvd, hle, hend⟩ := hs.erases_page hissue
    have hpos := pageSize_pos hg.ok
    exact ⟨Nat.mod_eq_zero_of_dvd hdvd, hle, by omega⟩
  | flashPageSize | lockAcquire | lockRelease | crcReset | crcAcc | crcValue | rngNext => trivial

/-! Calls that hang. -/

theorem memWrite_of_hangs {addr v : Word} {p q : Phase} {s : State} (ha : addr.toNat % 4 = 0)
    (h : s.env.replyAt 0 = .hangs) : memWrite addr v p q s = .next s.useReply.hang := by
  rw [memWrite_of_aligned ha, h]

theorem flashErase_of_hangs {addr : Word} {f g : State → State} {s : State} (hp : s.isPage addr = true)
    (h : s.env.replyAt 0 = .hangs) : flashErase addr f g s = .next s.useReply.hang := by
  rw [flashErase_of_page hp, h]

theorem lockAcquire_of_hangs {p : Phase} {s : State} (h : s.env.replyAt 0 = .hangs) :
    lockAcquire p s = .next s.useReply.hang := by
  rw [lockAcquire, h]

/-- A line whose call never comes back leaves the block at the line (60_exceptions.md R180). -/
theorem tick_of_hangs {s : State} (hs : s.Inv) (hp : s.ph.mayHang = true) (h : s.env.replyAt 0 = .hangs) :
    tick s = .next s.useReply.hang := by
  unfold Phase.mayHang at hp
  split at hp
  case h_9 => cases hp
  case h_1 hph =>
    rw [tick, hph]
    exact flashErase_of_hangs (hs.erases_isPage (.inl ⟨hph, rfl⟩)) h
  case h_2 hph | h_7 hph => rw [tick, hph]; exact lockAcquire_of_hangs h
  case h_8 hph =>
    rw [tick, hph]
    exact flashErase_of_hangs (hs.erases_isPage (.inr ⟨hph, rfl⟩)) h
  case h_4 hph =>
    rw [tick, hph]
    exact (if_pos (payload_index_lt_wrec hs hph)).trans
      (memWrite_of_hangs (hs.program_aligned (hph ▸ rfl)) h)
  case h_3 hph | h_5 hph | h_6 hph =>
    rw [tick, hph]
    exact memWrite_of_hangs (hs.program_aligned (hph ▸ rfl)) h

/-- Settles O7: `tick_of_hangs`, and that only moves that leave a busy block alone can land meanwhile. -/
theorem callThatNeverReturnsStopsTheBlock : Obligations.CallThatNeverReturnsStopsTheBlock := by
  refine ⟨fun s hs hp h => tick_of_hangs ((State.inv_iff s).1 hs) hp h, fun s t hbusy hhung h hpower => ?_,
    fun s hhung hmoves => ?_⟩
  · obtain ⟨hw, -⟩ | rfl | ⟨⟨n, m⟩, ms, hm, -, hland⟩ := step_cases h
    · simp [State.waiting, hhung] at hw
    · exact ⟨rfl, hhung, rfl, rfl, rfl, rfl⟩
    · have hne : m ≠ .powerLoss := fun hloss => hpower n ms (hloss ▸ hm)
      rw [land_onlyHost (s := { s with env := { s.env with moves := ms } }) hbusy hne hland]
      exact ⟨rfl, hhung, rfl, rfl, rfl, rfl⟩
  · simp [step, stepMachine, State.waiting, hhung, hmoves]

end Sys2Proof.Machine

/-! Every line keeps the invariant (10_state.md R26 to R29, 20_memory.md R42, R44). -/

namespace Sys2Proof.Machine

open Sys2Proof

/-- `s` at another line, with other working registers and the Cursor known or not. -/
def State.atLine (s : State) (p : Phase) (w : Work) (c : Bool) : State := { s with ph := p, wk := w, curv := c }

/-- What the invariant says of a configured block at a line depends on the configuration and on what the
line's registers hold. -/
theorem phaseOk_congr {s t : State} (hconfig : s.sameConfig t) (hhw : t.hw = s.hw) :
    t.phaseOk = (s.atLine t.ph t.wk t.curv).phaseOk := by
  obtain ⟨hcfgd, hfirst, hpages, hrec, hpage, hslot, hcount⟩ := hconfig
  obtain ⟨ph, cfgd, curv, illcmd, lockh, kind, fop, lastOp, errAddr, firstLoc, pageCount, recBytes, pageSize,
    slotBytes, entryCount, curLoc, curVer, wrec, rrec, wk, mem, ctrlHeld, acc, hung, hw, env, trace⟩ := t
  subst hcfgd hfirst hpages hrec hpage hslot hcount hhw
  cases ph <;> rfl

theorem sameConfig_refl (s : State) : s.sameConfig s := ⟨rfl, rfl, rfl, rfl, rfl, rfl, rfl⟩

theorem sameConfig_trans {s t u : State} (h : s.sameConfig t) (h' : t.sameConfig u) : s.sameConfig u := by
  obtain ⟨h1, h2, h3, h4, h5, h6, h7⟩ := h
  obtain ⟨h1', h2', h3', h4', h5', h6', h7'⟩ := h'
  exact ⟨h1'.trans h1, h2'.trans h2, h3'.trans h3, h4'.trans h4, h5'.trans h5, h6'.trans h6, h7'.trans h7⟩

theorem scan_sameConfig {c : Caller} {l : ScanLine} {s t : State} (h : scanLine c l s = .next t) :
    s.sameConfig t := by
  rw [scanLine_frame h]
  exact sameConfig_refl s

theorem read_sameConfig {l : RLine} {s t : State} (h : readLine l s = .next t) : s.sameConfig t := by
  rw [readLine_frame h]
  exact sameConfig_refl s

theorem write_sameConfig {l : WLine} {s t : State} (h : writeLine l s = .next t) : s.sameConfig t := by
  rw [writeLine_frame h]
  exact sameConfig_refl s

theorem erase_sameConfig {l : ELine} {s t : State} (h : eraseLine l s = .next t) : s.sameConfig t := by
  rw [eraseLine_frame h]
  exact sameConfig_refl s

theorem reset_sameConfig {l : XLine} {s t : State} (h : resetLine l s = .next t) : s.sameConfig t := by
  rw [resetLine_frame h]
  exact sameConfig_refl s

section

variable {s : State} {w : Work} {c : Bool} (hg : s.Geom)
include hg

theorem phaseOk_scan {k : Caller} {l : ScanLine} (h : (s.atLine (.scan k l) w c).scanOk l = true) :
    (s.atLine (.scan k l) w c).phaseOk = true := by
  show (s.cfgd && s.geomOK && _) = true
  rw [hg.cfgd, hg.ok, h]; rfl

theorem phaseOk_read {l : RLine} (h : (s.atLine (.read l) w c).readOk l = true) :
    (s.atLine (.read l) w c).phaseOk = true := by
  show (s.cfgd && s.geomOK && _) = true
  rw [hg.cfgd, hg.ok, h]; rfl

theorem phaseOk_write {l : WLine} (h : (s.atLine (.write l) w c).writeOk l = true) :
    (s.atLine (.write l) w c).phaseOk = true := by
  show (s.cfgd && s.geomOK && _) = true
  rw [hg.cfgd, hg.ok, h]; rfl

theorem phaseOk_erase {l : ELine} (h : (s.atLine (.erase l) w c).eraseOk l = true) :
    (s.atLine (.erase l) w c).phaseOk = true := by
  show (s.cfgd && s.geomOK && _) = true
  rw [hg.cfgd, hg.ok, h]; rfl

end

@[simp] theorem atLine_wk (s : State) (p : Phase) (w : Work) (c : Bool) : (s.atLine p w c).wk = w := rfl
@[simp] theorem atLine_curv (s : State) (p : Phase) (w : Work) (c : Bool) : (s.atLine p w c).curv = c := rfl
@[simp] theorem atLine_entryCount (s : State) (p : Phase) (w : Work) (c : Bool) :
    (s.atLine p w c).entryCount = s.entryCount := rfl
@[simp] theorem atLine_pageCount (s : State) (p : Phase) (w : Work) (c : Bool) :
    (s.atLine p w c).pageCount = s.pageCount := rfl
@[simp] theorem atLine_slotWords (s : State) (p : Phase) (w : Work) (c : Bool) :
    (s.atLine p w c).slotWords = s.slotWords := rfl
@[simp] theorem atLine_payloadWords (s : State) (p : Phase) (w : Work) (c : Bool) :
    (s.atLine p w c).payloadWords = s.payloadWords := rfl
@[simp] theorem atLine_fillerCount (s : State) (p : Phase) (w : Work) (c : Bool) :
    (s.atLine p w c).fillerCount = s.fillerCount := rfl
@[simp] theorem atLine_slotAddr (s : State) (p : Phase) (w : Work) (c : Bool) :
    (s.atLine p w c).slotAddr = s.slotAddr := rfl
@[simp] theorem atLine_isSlot (s : State) (p : Phase) (w : Work) (c : Bool) :
    (s.atLine p w c).isSlot = s.isSlot := rfl
@[simp] theorem atLine_pageStart (s : State) (p : Phase) (w : Work) (c : Bool) :
    (s.atLine p w c).pageStart = s.pageStart := rfl

/-! Loop indices count up to their bound. -/

theorem lt_of_le_of_ne_word {i n : Word} (hle : i ≤ n) (hne : i ≠ n) : i < n :=
  Nat.lt_of_le_of_ne hle fun h => hne (BitVec.eq_of_toNat_eq h)

theorem add_one_le_word {i n : Word} (h : i < n) : i + 1 ≤ n := by
  rw [BitVec.le_def, toNat_add_one h]
  exact h

theorem zero_le_word (n : Word) : 0#32 ≤ n := Nat.zero_le _

/-! WRITE. -/

section

variable {s : State} (hs : s.Inv)
include hs

/-- The slot a WRITE allocates is a slot of the Region. -/
theorem isSlot_allocate (hg : s.Geom) : s.isSlot s.allocate.nloc = true := by
  unfold State.allocate
  split
  · exact isSlot_nextLoc hg.ok hg.latched (hs.slot_of_cursor ‹_›)
  · exact isSlot_firstLoc hg.ok hg.latched

/-- A program goes on at `onOk`, at WF, or hangs at its line, with the registers as they were. -/
theorem programNext_phaseOk {v : Word} {l onOk : WLine} {t : State} (hp : s.ph = .write l)
    (hok : s.writeOk l = true → (s.atLine (.write onOk) s.wk s.curv).writeOk onOk = true)
    (h : programNext v onOk s = .next t) : (s.atLine t.ph t.wk t.curv).phaseOk = true := by
  obtain ⟨hg, hline⟩ := hs.write hp
  obtain ⟨-, ⟨-, rfl⟩ | ⟨ok, -, rfl⟩⟩ := memWrite_next h
  · rw [State.hang_ph, State.useReply_ph, hp]
    exact phaseOk_write hg hline
  · simp only [State.goto_ph, State.goto_wk, State.goto_curv, State.emit_wk, State.emit_curv, State.programmed_wk,
      State.programmed_curv, State.useReply_wk, State.useReply_curv]
    split
    · exact phaseOk_write hg (hok hline)
    · exact phaseOk_write hg rfl

theorem writeLine_phaseOk {l : WLine} {t : State} (hp : s.ph = .write l) (h : writeLine l s = .next t) :
    t.phaseOk = true := by
  obtain ⟨hg, hline⟩ := hs.write hp
  rw [phaseOk_congr (write_sameConfig h) (by rw [writeLine_frame h]; rfl)]
  cases l with
  | w1 =>
    cases h
    rw [State.goto_ph]
    split
    · exact phaseOk_write hg rfl
    · exact phaseOk_scan hg rfl
  | w2 => cases h; exact phaseOk_write hg (isSlot_allocate hs hg)
  | w3 =>
    cases h
    rw [State.goto_ph]
    split
    · exact phaseOk_write hg (by simpa [State.writeOk] using ⟨hline, ‹_›⟩)
    · exact phaseOk_write hg hline
  | w3erase =>
    obtain ⟨-, ⟨-, rfl⟩ | ⟨ok, -, rfl⟩⟩ := flashErase_next h
    · rw [State.hang_ph, State.useReply_ph, hp]
      exact phaseOk_write hg hline
    · simp only [State.writeOk, Bool.and_eq_true] at hline
      cases ok
      · exact phaseOk_write hg rfl
      · exact phaseOk_write hg (by simpa [State.writeOk] using hline.1)
  | w4 =>
    obtain ⟨-, rfl⟩ | ⟨ok, -, rfl⟩ := lockAcquire_next h
    · rw [State.hang_ph, State.useReply_ph, hp]
      exact phaseOk_write hg hline
    · exact phaseOk_write hg hline
  | w5reset => cases h; exact phaseOk_write hg (by simpa [State.writeOk] using hline)
  | w5feed =>
    cases h
    simp only [State.writeOk, Bool.and_eq_true, beq_iff_eq] at hline
    exact phaseOk_write hg (by simp [State.writeOk, State.feed, hline])
  | w5program => exact programNext_phaseOk hs hp id h
  | w6start =>
    cases h
    simp only [State.writeOk, Bool.and_eq_true, beq_iff_eq] at hline
    exact phaseOk_write hg (by simp [State.writeOk, hline, zero_le_word])
  | w6test =>
    cases h
    simp only [State.writeOk, Bool.and_eq_true, beq_iff_eq, decide_eq_true_eq] at hline
    rw [State.goto_ph]
    split
    case isTrue hi => exact phaseOk_write hg (by simp [State.writeOk, hline, ← hi])
    case isFalse hi =>
      refine phaseOk_write hg ?_
      simp only [State.writeOk, Bool.and_eq_true, beq_iff_eq, decide_eq_true_eq]
      exact ⟨hline.1, lt_of_le_of_ne_word hline.2 hi⟩
  | w6program =>
    simp only [writeLine] at h
    split at h
    · exact programNext_phaseOk hs hp id h
    · cases h
  | w6feed =>
    cases h
    simp only [State.writeOk, Bool.and_eq_true, beq_iff_eq, decide_eq_true_eq] at hline
    obtain ⟨⟨hslot, ha⟩, hi⟩ := hline
    refine phaseOk_write hg ?_
    simp only [State.writeOk, Bool.and_eq_true, beq_iff_eq, decide_eq_true_eq]
    exact ⟨⟨hslot, by simp [State.feed, ha, BitVec.mul_add, BitVec.add_assoc]⟩, add_one_le_word hi⟩
  | w7start =>
    cases h
    simp only [State.writeOk, Bool.and_eq_true, beq_iff_eq] at hline
    exact phaseOk_write hg (by simp [State.writeOk, hline, zero_le_word])
  | w7test =>
    cases h
    simp only [State.writeOk, Bool.and_eq_true, beq_iff_eq, decide_eq_true_eq] at hline
    obtain ⟨⟨hslot, ha⟩, hi⟩ := hline
    rw [State.goto_ph]
    split
    case isTrue hlast =>
      refine phaseOk_write hg ?_
      simp only [State.writeOk, Bool.and_eq_true, beq_iff_eq]
      refine ⟨hslot, ha.trans ?_⟩
      rw [hlast, atLine_wk, atLine_slotWords, State.goto_wk, State.fillerCount]
      ring
    case isFalse hne =>
      refine phaseOk_write hg ?_
      simp only [State.writeOk, Bool.and_eq_true, beq_iff_eq, decide_eq_true_eq]
      exact ⟨⟨hslot, ha⟩, lt_of_le_of_ne_word hi hne⟩
  | w7draw => cases h; exact phaseOk_write hg hline
  | w7program => exact programNext_phaseOk hs hp id h
  | w7feed =>
    cases h
    simp only [State.writeOk, Bool.and_eq_true, beq_iff_eq, decide_eq_true_eq] at hline
    obtain ⟨⟨hslot, ha⟩, hi⟩ := hline
    refine phaseOk_write hg ?_
    simp only [State.writeOk, Bool.and_eq_true, beq_iff_eq, decide_eq_true_eq]
    exact ⟨⟨hslot, by simp [State.feed, ha, BitVec.mul_add, BitVec.add_assoc]⟩, add_one_le_word hi⟩
  | w8value => cases h; exact phaseOk_write hg hline
  | w8program =>
    refine programNext_phaseOk hs hp (fun hline => ?_) h
    simp only [State.writeOk, Bool.and_eq_true] at hline ⊢
    exact hline.1
  | w9 | w10release | wfRelease => cases h; exact phaseOk_write hg rfl
  | w3raise | w10complete | wfRaise => cases h; rfl

/-! SCAN. -/

theorem scanLine_phaseOk {c : Caller} {l : ScanLine} {t : State} (hp : s.ph = .scan c l)
    (h : scanLine c l s = .next t) : t.phaseOk = true := by
  obtain ⟨hg, hline⟩ := hs.scan hp
  have hdrop : s.scanOk .s5 = true → s.scanOk .s8 = true := by
    simp only [State.scanOk, Bool.and_eq_true]
    exact And.left
  rw [phaseOk_congr (scan_sameConfig h) (by rw [scanLine_frame h])]
  cases l with
  | s1 =>
    cases h
    exact phaseOk_scan hg (by simp [State.scanOk, State.candidateOk, zero_le_word])
  | s2 =>
    cases h
    simp only [State.scanOk, Bool.and_eq_true, decide_eq_true_eq] at hline
    rw [State.goto_ph]
    split
    · exact phaseOk_scan hg hline.1
    case isFalse hi =>
      refine phaseOk_scan hg ?_
      simp only [State.scanOk, Bool.and_eq_true, decide_eq_true_eq]
      exact ⟨hline.1, lt_of_le_of_ne_word hline.2 hi⟩
  | s3 =>
    cases h
    simp only [State.scanOk, Bool.and_eq_true] at hline
    refine phaseOk_scan hg ?_
    simp only [State.scanOk, Bool.and_eq_true, beq_iff_eq]
    exact ⟨hline, rfl⟩
  | s4 =>
    rw [scanLine] at h
    obtain ⟨-, rfl⟩ := memRead_next h
    exact phaseOk_scan hg hline
  | s5 =>
    cases h
    rw [State.goto_ph]
    split
    · exact phaseOk_scan hg (hdrop hline)
    · exact phaseOk_scan hg hline
  | s6 =>
    cases h
    rw [State.goto_ph]
    split
    · exact phaseOk_scan hg hline
    · exact phaseOk_scan hg (hdrop hline)
  | s7crc =>
    rw [scanLine] at h
    obtain ⟨-, rfl⟩ := crcBlock_next h
    exact phaseOk_scan hg hline
  | s7trailer =>
    rw [scanLine] at h
    obtain ⟨-, rfl⟩ := memRead_next h
    exact phaseOk_scan hg hline
  | s7keep =>
    have hslot := hs.scan_slot hp (by decide)
    obtain ⟨-, hi, -⟩ := hs.scan_index hp (by decide)
    simp only [scanLine] at h
    split at h
    · cases h
      refine phaseOk_scan hg ?_
      simp only [State.scanOk, State.candidateOk, Bool.and_eq_true, decide_eq_true_eq]
      exact ⟨hslot, hi⟩
    · cases h
      exact phaseOk_scan hg (hdrop hline)
  | s8 =>
    cases h
    simp only [State.scanOk, Bool.and_eq_true, decide_eq_true_eq] at hline
    refine phaseOk_scan hg ?_
    simp only [State.scanOk, Bool.and_eq_true, decide_eq_true_eq]
    exact ⟨hline.1, add_one_le_word hline.2⟩
  | s9 =>
    simp only [scanLine] at h
    split at h
    · cases h
      cases c
      · exact phaseOk_read hg rfl
      · exact phaseOk_write hg rfl
    · cases h
      cases c
      · exact phaseOk_read hg rfl
      · exact phaseOk_write hg rfl

/-! READ. -/

theorem readLine_phaseOk {l : RLine} {t : State} (hp : s.ph = .read l) (h : readLine l s = .next t) :
    t.phaseOk = true := by
  obtain ⟨hg, hline⟩ := hs.read hp
  rw [phaseOk_congr (read_sameConfig h) (by rw [readLine_frame h])]
  cases l with
  | rd1 =>
    cases h
    rw [State.goto_ph]
    split
    · exact phaseOk_read hg ‹_›
    · exact phaseOk_scan hg rfl
  | rd2start =>
    cases h
    refine phaseOk_read hg ?_
    simp only [State.readOk, Bool.and_eq_true, decide_eq_true_eq]
    exact ⟨hline, zero_le_word _⟩
  | rd2copy =>
    obtain ⟨hc, -⟩ := hs.copy_index hp
    simp only [readLine] at h
    split at h
    · cases h
      exact phaseOk_read hg hc
    case isFalse hi =>
      split at h
      · obtain ⟨-, rfl⟩ := memRead_next h
        rw [State.setWork_ph, State.setRrec_ph, State.emit_ph, hp]
        refine phaseOk_read hg ?_
        simp only [State.readOk, Bool.and_eq_true, decide_eq_true_eq]
        exact ⟨hc, add_one_le_word (hs.copy_index_lt hp hi)⟩
      · cases h
  | rd1NotFound | rd3 => cases h; rfl

/-! ERASE, RESET and CONFIGURE. -/

theorem eraseLine_phaseOk {l : ELine} {t : State} (hp : s.ph = .erase l) (h : eraseLine l s = .next t) :
    t.phaseOk = true := by
  obtain ⟨hg, hline⟩ := hs.erase hp
  rw [phaseOk_congr (erase_sameConfig h) (by rw [eraseLine_frame h]; rfl)]
  cases l with
  | e1 => cases h; exact phaseOk_erase hg rfl
  | e2 =>
    obtain ⟨-, rfl⟩ | ⟨ok, -, rfl⟩ := lockAcquire_next h
    · rw [State.hang_ph, State.useReply_ph, hp]
      exact phaseOk_erase hg rfl
    · exact phaseOk_erase hg rfl
  | e3start => cases h; exact phaseOk_erase hg (decide_eq_true (zero_le_word s.pageCount))
  | e3test =>
    cases h
    rw [State.goto_ph]
    split
    · exact phaseOk_erase hg rfl
    case isFalse hi =>
      exact phaseOk_erase hg (decide_eq_true (lt_of_le_of_ne_word (of_decide_eq_true hline) hi))
  | e3erase =>
    obtain ⟨-, ⟨-, rfl⟩ | ⟨ok, -, rfl⟩⟩ := flashErase_next h
    · rw [State.hang_ph, State.useReply_ph, hp]
      exact phaseOk_erase hg hline
    · cases ok
      · refine phaseOk_erase hg ?_
        simp only [Bool.false_eq_true, if_false, State.goto_wk, State.emit_wk, State.erased_wk, State.useReply_wk]
        exact hline
      · refine phaseOk_erase hg ?_
        simp only [if_true, State.goto_wk, State.setWork_wk, State.emit_wk, State.erased_wk, State.useReply_wk]
        exact decide_eq_true (add_one_le_word (of_decide_eq_true hline))
  | e3release => cases h; exact phaseOk_erase hg hline
  | e4release => cases h; exact phaseOk_erase hg rfl
  | e3raise | e4complete => cases h; rfl

theorem resetLine_phaseOk {l : XLine} {t : State} (hp : s.ph = .reset l) (h : resetLine l s = .next t) :
    t.phaseOk = true := by
  have hcfgd : s.cfgd = true := by
    have h := hs.phase
    rwa [State.phaseOk, hp] at h
  cases l with
  | x1 => cases h; exact hcfgd
  | x2 => cases h; rfl

theorem configureLine_phaseOk {l : CLine} {t : State} (hp : s.ph = .configure l) (h : configureLine l s = .next t) :
    t.phaseOk = true := by
  have hline := hs.configure hp
  cases l with
  | c1 =>
    simp only [configureLine, raise] at h
    split at h
    · cases h; rfl
    case isFalse hrec =>
      cases h
      show (!s.cfgd && s.recBytes % 4 == 0) = true
      rw [Bool.and_eq_true]
      exact ⟨hline, by simpa using hrec⟩
  | c2 =>
    cases h
    show (!s.cfgd && s.recBytes % 4 == 0 && s.hw.pageSize == s.hw.pageSize) = true
    simpa [State.configureOk] using hline
  | c3 =>
    cases h
    show (!s.cfgd && s.recBytes % 4 == 0 && s.pageSize == s.hw.pageSize &&
      slotBytesOf s.recBytes == slotBytesOf s.recBytes) = true
    simpa [State.configureOk] using hline
  | c4 =>
    cases h
    show (!s.cfgd && (s.recBytes % 4 == 0 && s.pageSize == s.hw.pageSize && s.slotBytes == slotBytesOf s.recBytes &&
      entryCountOf s.pageSize s.pageCount s.slotBytes == entryCountOf s.pageSize s.pageCount s.slotBytes)) = true
    simpa [State.configureOk, and_assoc] using hline
  | c5 | c6 => cases h; rfl

end

/-! The parts of the invariant beside the line. -/

theorem memWrite_hung {addr v : Word} {p q : Phase} {s t : State} (h : memWrite addr v p q s = .next t) :
    t.hung = s.hung ∨ (s.env.replyAt 0 = .hangs ∧ t = s.useReply.hang) := by
  obtain ⟨-, ⟨hr, rfl⟩ | ⟨ok, -, rfl⟩⟩ := memWrite_next h
  · exact .inr ⟨hr, rfl⟩
  · exact .inl (by simp)

theorem flashErase_hung {addr : Word} {f g : State → State} {s t : State} (h : flashErase addr f g s = .next t)
    (hf : ∀ u, (f u).hung = u.hung) (hg : ∀ u, (g u).hung = u.hung) :
    t.hung = s.hung ∨ (s.env.replyAt 0 = .hangs ∧ t = s.useReply.hang) := by
  obtain ⟨-, ⟨hr, rfl⟩ | ⟨ok, -, rfl⟩⟩ := flashErase_next h
  · exact .inr ⟨hr, rfl⟩
  · cases ok
    · exact .inl ((hg _).trans (by simp))
    · exact .inl ((hf _).trans (by simp))

theorem lockAcquire_hung {p : Phase} {s t : State} (h : lockAcquire p s = .next t) :
    t.hung = s.hung ∨ (s.env.replyAt 0 = .hangs ∧ t = s.useReply.hang) := by
  obtain ⟨hr, rfl⟩ | ⟨ok, -, rfl⟩ := lockAcquire_next h
  · exact .inr ⟨hr, rfl⟩
  · exact .inl rfl

/-- A line hangs only where it makes a call that may hang, and then stays there. -/
theorem tick_hung {s t : State} (h : tick s = .next t) :
    t.hung = s.hung ∨ (s.ph.mayHang = true ∧ s.env.replyAt 0 = .hangs ∧ t = s.useReply.hang) := by
  unfold tick at h
  split at h
  case h_1 => cases h; exact .inl rfl
  case h_2 => exact .inl (by rw [configureLine_frame h])
  case h_3 => exact .inl (by rw [scanLine_frame h])
  case h_4 => exact .inl (by rw [readLine_frame h])
  case h_5 l hp =>
    rw [hp]
    cases l with
    | w3erase => exact (flashErase_hung h (fun _ => rfl) (fun _ => rfl)).imp_right (.intro rfl)
    | w4 => exact (lockAcquire_hung h).imp_right (.intro rfl)
    | w5program | w7program | w8program => exact (memWrite_hung h).imp_right (.intro rfl)
    | w6program =>
      simp only [writeLine] at h
      split at h
      · exact (memWrite_hung h).imp_right (.intro rfl)
      · cases h
    | w1 | w2 | w3 | w3raise | w5reset | w5feed | w6start | w6test | w6feed | w7start | w7test | w7draw | w7feed
    | w8value | w9 | w10release | w10complete | wfRelease | wfRaise => cases h; exact .inl rfl
  case h_6 l hp =>
    rw [hp]
    cases l with
    | e2 => exact (lockAcquire_hung h).imp_right (.intro rfl)
    | e3erase => exact (flashErase_hung h (fun _ => rfl) (fun _ => rfl)).imp_right (.intro rfl)
    | e1 | e3start | e3test | e3release | e3raise | e4release | e4complete => cases h; exact .inl rfl
  case h_7 => exact .inl (by rw [resetLine_frame h])

theorem sameCursor_of_flashUpdate {s t : State} (h : t = s.flashUpdate t) : s.sameCursor t := by
  rw [h]
  exact ⟨rfl, rfl, rfl⟩

/-- WRITE moves the Cursor at W9 alone, to the slot it has written (42_write.md R139). -/
theorem writeLine_cursor {l : WLine} {s t : State} (h : writeLine l s = .next t) :
    s.sameCursor t ∨ (l = .w9 ∧ t.curLoc = s.wk.nloc) := by
  cases l with
  | w3erase => exact .inl (sameCursor_of_flashUpdate (flashErase_frame h (fun _ => rfl) (fun _ => rfl)))
  | w4 => exact .inl (sameCursor_of_flashUpdate (lockAcquire_frame h))
  | w5program | w7program | w8program => exact .inl (sameCursor_of_flashUpdate (memWrite_frame h))
  | w6program =>
    simp only [writeLine] at h
    split at h
    · exact .inl (sameCursor_of_flashUpdate (memWrite_frame h))
    · cases h
  | w9 => cases h; exact .inr ⟨rfl, rfl⟩
  | w1 | w2 | w3 | w3raise | w5reset | w5feed | w6start | w6test | w6feed | w7start | w7test | w7draw | w7feed
  | w8value | w10release | w10complete | wfRelease | wfRaise => cases h; exact .inl ⟨rfl, rfl, rfl⟩

/-- `SCAN` sets the Cursor at S9 alone, to its candidate (41_scan_read.md R114). -/
theorem scanLine_cursor {c : Caller} {l : ScanLine} {s t : State} (h : scanLine c l s = .next t) :
    s.sameCursor t ∨ (l = .s9 ∧ s.wk.bf = true ∧ t.curLoc = s.wk.bloc) := by
  cases l with
  | s4 | s7trailer =>
    rw [scanLine] at h
    obtain ⟨-, rfl⟩ := memRead_next h
    exact .inl ⟨rfl, rfl, rfl⟩
  | s7crc =>
    rw [scanLine] at h
    obtain ⟨-, rfl⟩ := crcBlock_next h
    exact .inl ⟨rfl, rfl, rfl⟩
  | s7keep =>
    simp only [scanLine] at h
    split at h <;> (cases h; exact .inl ⟨rfl, rfl, rfl⟩)
  | s9 =>
    simp only [scanLine] at h
    split at h
    case isTrue hbf => cases h; exact .inr ⟨rfl, hbf, rfl⟩
    case isFalse => cases h; exact .inl ⟨rfl, rfl, rfl⟩
  | s1 | s2 | s3 | s5 | s6 | s8 => cases h; exact .inl ⟨rfl, rfl, rfl⟩

theorem eraseLine_curv {l : ELine} {s t : State} (h : eraseLine l s = .next t) : t.curv = true → s.curv = true := by
  cases l with
  | e1 => cases h; nofun
  | e2 => rw [(sameCursor_of_flashUpdate (lockAcquire_frame h)).1]; exact id
  | e3erase => rw [(sameCursor_of_flashUpdate (flashErase_frame h (fun _ => rfl) (fun _ => rfl))).1]; exact id
  | e3start | e3test | e3release | e3raise | e4release | e4complete => cases h; exact id

/-- Two states with one configuration have one geometry. -/
theorem geometry_congr {s t : State} (hconfig : s.sameConfig t) (hhw : t.hw = s.hw) :
    t.latched = s.latched ∧ t.geomOK = s.geomOK ∧ t.isSlot = s.isSlot := by
  obtain ⟨-, hfirst, hpages, hrec, hpage, hslot, hcount⟩ := hconfig
  refine ⟨?_, ?_, ?_⟩
  · simp only [State.latched, hpages, hrec, hpage, hslot, hcount, hhw]
  · simp only [State.geomOK, State.geometry, hfirst, hpages, hrec, hpage, hhw]
  · funext loc
    simp only [State.isSlot, hfirst, hpages, hpage, hslot]

/-- A configured block keeps its configuration at every line. -/
theorem tick_sameConfig {s t : State} (hs : s.Inv) (hcfgd : s.cfgd = true) (h : tick s = .next t) :
    s.sameConfig t := by
  unfold tick at h
  split at h
  case h_1 => cases h; exact sameConfig_refl s
  case h_2 l hp =>
    have hline := hs.configure hp
    cases l with
    | c6 => cases h; exact sameConfig_refl s
    | c1 | c2 | c3 | c4 | c5 => simp [State.configureOk, hcfgd] at hline
  case h_3 => exact scan_sameConfig h
  case h_4 => exact read_sameConfig h
  case h_5 => exact write_sameConfig h
  case h_6 => exact erase_sameConfig h
  case h_7 => exact reset_sameConfig h

theorem tick_rrec_length {s t : State} (h : tick s = .next t) : t.rrec.length = s.rrec.length := by
  unfold tick at h
  split at h
  case h_1 => cases h; rfl
  case h_2 => rw [configureLine_frame h]
  case h_3 => rw [scanLine_frame h]
  case h_4 l _ =>
    cases l with
    | rd2copy =>
      simp only [readLine] at h
      split at h
      · cases h; rfl
      · split at h
        · obtain ⟨-, rfl⟩ := memRead_next h
          simp
        · cases h
    | rd1 | rd1NotFound | rd2start | rd3 => cases h; rfl
  case h_5 => rw [writeLine_frame h]; rfl
  case h_6 => rw [eraseLine_frame h]; rfl
  case h_7 => rw [resetLine_frame h]

section

variable {s t : State} (hs : s.Inv) (h : tick s = .next t)
include hs h

theorem tick_phaseOk : t.phaseOk = true := by
  unfold tick at h
  split at h
  case h_1 => cases h; exact hs.phase
  case h_2 hp => exact configureLine_phaseOk hs hp h
  case h_3 hp => exact scanLine_phaseOk hs hp h
  case h_4 hp => exact readLine_phaseOk hs hp h
  case h_5 hp => exact writeLine_phaseOk hs hp h
  case h_6 hp => exact eraseLine_phaseOk hs hp h
  case h_7 hp => exact resetLine_phaseOk hs hp h

/-- A known Cursor comes from a known one, or from a slot of the Region. -/
theorem tick_known_cursor (hc : t.curv = true) : s.Geom ∧ s.isSlot t.curLoc = true := by
  have hsame : s.sameCursor t → s.Geom ∧ s.isSlot t.curLoc = true := by
    rintro ⟨hcurv, hloc, -⟩
    rw [hcurv] at hc
    rw [hloc]
    exact ⟨hs.geom_of_cursor hc, hs.slot_of_cursor hc⟩
  unfold tick at h
  split at h
  case h_1 => cases h; exact hsame ⟨rfl, rfl, rfl⟩
  case h_2 l hp =>
    cases l with
    | c1 =>
      simp only [configureLine, raise] at h
      split at h <;> (cases h; exact hsame ⟨rfl, rfl, rfl⟩)
    | c5 => cases h; cases hc
    | c2 | c3 | c4 | c6 => cases h; exact hsame ⟨rfl, rfl, rfl⟩
  case h_3 hp =>
    obtain ⟨hg, hline⟩ := hs.scan hp
    obtain hsc | ⟨rfl, hbf, hloc⟩ := scanLine_cursor h
    · exact hsame hsc
    · simp only [State.scanOk, State.candidateOk, hbf] at hline
      exact ⟨hg, hloc ▸ hline⟩
  case h_4 => exact hsame (by rw [readLine_frame h]; exact ⟨rfl, rfl, rfl⟩)
  case h_5 hp =>
    obtain ⟨hg, hline⟩ := hs.write hp
    obtain hsc | ⟨rfl, hloc⟩ := writeLine_cursor h
    · exact hsame hsc
    · exact ⟨hg, hloc ▸ hline⟩
  case h_6 =>
    exact hsame ⟨hc.trans (eraseLine_curv h hc).symm, by rw [eraseLine_frame h]; rfl, by rw [eraseLine_frame h]; rfl⟩
  case h_7 l _ =>
    cases l with
    | x1 => cases h; cases hc
    | x2 => cases h; exact hsame ⟨rfl, rfl, rfl⟩

/-- Only C5 configures the block, and what it configures is latched (40_geometry_configure.md R100). -/
theorem tick_latched (hcfgd : t.cfgd = true) : t.latched = true := by
  by_cases hc : s.cfgd = true
  · rw [(geometry_congr (tick_sameConfig hs hc h) (tick_hw h)).1]
    exact hs.latched hc
  · have hfrom : s.cfgd = t.cfgd → t.latched = true := fun heq => absurd (heq.trans hcfgd) hc
    unfold tick at h
    split at h
    case h_2 l hp =>
      have hline := hs.configure hp
      cases l with
      | c5 =>
        cases h
        simp only [State.configureOk, Bool.and_eq_true] at hline
        exact hline.2
      | c1 =>
        simp only [configureLine, raise] at h
        split at h <;> (cases h; exact hfrom rfl)
      | c2 | c3 | c4 | c6 => cases h; exact hfrom rfl
    case h_1 => cases h; exact hfrom rfl
    case h_3 => exact hfrom (scan_sameConfig h).1.symm
    case h_4 => exact hfrom (read_sameConfig h).1.symm
    case h_5 => exact hfrom (write_sameConfig h).1.symm
    case h_6 => exact hfrom (erase_sameConfig h).1.symm
    case h_7 => exact hfrom (reset_sameConfig h).1.symm

/-- Every line of a block whose call is not in progress keeps the invariant. -/
theorem tick_inv (hh : s.hung = false) : t.Inv where
  mem_wf := (tick_flashAfter h).wf hs.mem_wf
  lock := tick_lockOk hs.lock h
  wrec_length := by rw [tick_frame h]; exact hs.wrec_length
  rrec_length := (tick_rrec_length h).trans (by rw [tick_hw h]; exact hs.rrec_length)
  hung := by
    intro ht
    obtain heq | ⟨hp, -, rfl⟩ := tick_hung h
    · rw [heq, hh] at ht
      cases ht
    · exact hp
  latched := tick_latched hs h
  cursor := by
    intro hc
    obtain ⟨hg, hslot⟩ := tick_known_cursor hs h hc
    have hconfig := tick_sameConfig hs hg.cfgd h
    obtain ⟨-, hok, hisSlot⟩ := geometry_congr hconfig (tick_hw h)
    exact ⟨hconfig.1.trans hg.cfgd, hok.trans hg.ok, hisSlot ▸ hslot⟩
  phase := tick_phaseOk hs h

end

/-! The moves. -/

theorem Env.unspecWords_length (e : Env) (k n : Nat) : (e.unspecWords k n).length = n := by
  simp [Env.unspecWords]

theorem powerLoss_inv {s : State} (hs : s.Inv) : s.powerLoss.Inv where
  mem_wf := (powerLoss_flashAfter s).wf hs.mem_wf
  lock := powerLoss_lockOk s
  wrec_length := Env.unspecWords_length _ _ _
  rrec_length := Env.unspecWords_length _ _ _
  hung := nofun
  latched := nofun
  cursor := nofun
  phase := rfl

theorem idle_not_hung {s : State} (hs : s.Inv) (hph : s.ph = .idle) : s.hung = false := by
  by_contra hh
  have hmay := hs.hung (by simpa using hh)
  rw [hph] at hmay
  cases hmay

/-- A command starts at a line for which nothing need hold yet. -/
theorem goto_firstLine_inv {s : State} {i : Instr} (hs : s.Inv) (ha : s.Allows i) : (s.goto (firstLine i)).Inv where
  mem_wf := hs.mem_wf
  lock := goto_firstLine_lockOk hs.lock ha.1
  wrec_length := hs.wrec_length
  rrec_length := hs.rrec_length
  hung := by
    rw [State.goto_hung, idle_not_hung hs ha.1]
    nofun
  latched := hs.latched
  cursor := hs.cursor
  phase := by
    obtain ⟨-, hcfgd, hg⟩ := ha
    cases i with
    | configure => exact (congrArg (!·) hcfgd).trans rfl
    | reset => exact hcfgd
    | read | write | erase =>
      show (s.cfgd && s.geomOK && true) = true
      rw [hcfgd, hg rfl]; rfl

/-- The registers of the configuration are the host's to write while the block is not configured. -/
theorem configWrite_inv {s t : State} (hs : s.Inv) (hph : s.ph = .idle) (hcfgd : s.cfgd = false)
    (ht : t = { s with firstLoc := t.firstLoc, pageCount := t.pageCount, recBytes := t.recBytes }) : t.Inv := by
  have hc : s.curv ≠ true := fun hc => Bool.false_ne_true (hcfgd.symm.trans (hs.geom_of_cursor hc).cfgd)
  rw [ht]
  exact ⟨hs.mem_wf, hs.lock, hs.wrec_length, hs.rrec_length, hs.hung, fun h => absurd h (by simp [hcfgd]),
    fun h => absurd h hc, by simp [State.phaseOk, hph]⟩

/-- The invariant has no part in `ILLCMD` or in the host and the environment. -/
theorem State.Inv.withHost {s : State} (hs : s.Inv) (b : Bool) (ms : List Timed) (rs : List Word) (n : Nat) :
    (s.withHost b ms rs n).Inv :=
  ⟨hs.mem_wf, hs.lock, hs.wrec_length, hs.rrec_length, hs.hung, hs.latched, hs.cursor, hs.phase⟩

theorem step_inv {s t : State} (hs : s.Inv) (h : step s = .next t) : t.Inv := by
  refine step_keeps (P := State.Inv)
    (fun u b ms rs n hu => hu.withHost b ms rs n)
    (fun u v hu _ hh hv => tick_inv hu hv hh) ?start ?reg ?wrec ?flash ?power hs h
  case start => exact fun u i hu ha => goto_firstLine_inv hu ha
  case reg =>
    exact fun u v hu hph hcfgd =>
      ⟨configWrite_inv hu hph hcfgd rfl, configWrite_inv hu hph hcfgd rfl, configWrite_inv hu hph hcfgd rfl⟩
  case wrec =>
    intro u i v hu hph
    exact ⟨hu.mem_wf, hu.lock, (List.length_set ..).trans hu.wrec_length, hu.rrec_length, hu.hung, hu.latched,
      hu.cursor, by simp [State.phaseOk, hph]⟩
  case flash =>
    intro u a v hu hph
    exact ⟨writeWord_wf hu.mem_wf _ _, hu.lock, hu.wrec_length, hu.rrec_length, hu.hung, hu.latched,
      hu.cursor, by simp [State.phaseOk, hph]⟩
  case power => exact fun u hu => powerLoss_inv hu

/-- Settles O53: every line by `tick_inv`, every move by what it changes. -/
theorem stepKeepsTheInvariant : Obligations.StepKeepsTheInvariant := by
  intro s t hs h
  rw [State.inv_iff] at hs ⊢
  exact step_inv hs h

theorem run_ne_fault {s : State} (hs : s.Inv) (n : Nat) (f : Fault) : run n s ≠ .fault f := by
  induction n generalizing s with
  | zero => nofun
  | succ n ih =>
    by_cases hw : s.waiting = true
    · rw [run_of_waiting hw]
      nofun
    · rw [Bool.not_eq_true] at hw
      obtain ⟨-, hh⟩ := busy_of_not_waiting hw
      cases ht : tick s with
      | next u =>
        rw [run_of_tick hw ht, elapse_eq]
        exact ih ((tick_inv hs ht hh).withHost _ _ _ _)
      | fault g => exact absurd ht (tick_ne_fault hs g)
      | refused r => exact absurd ht (tick_ne_refused s r)

theorem exec_ne_fault {s : State} (hs : s.Inv) (i : Instr) (f : Fault) : exec i s ≠ .fault f := by
  by_cases ha : s.ph = .idle ∧ s.cfgd = (i != .configure)
  · by_cases hg : needsGeometry i = true → s.geomOK = true
    · rw [exec_of_allowed ha.1 ha.2 hg]
      exact run_ne_fault (goto_firstLine_inv hs ⟨ha.1, ha.2, hg⟩) _ f
    · push Not at hg
      obtain ⟨hi, hg⟩ := hg
      rw [exec_of_outside_geometry ha.1 (ha.2.trans (ne_configure_of_needsGeometry hi)) hi (by simpa using hg)]
      nofun
  · rw [exec_of_not_allowed ha]
    nofun

theorem configWrite_ne_fault (s t : State) (f : Fault) : configWrite s t ≠ .fault f := by
  unfold configWrite
  split <;> nofun

theorem hostWrite_ne_fault {s : State} (hs : s.Inv) (off v : Word) (f : Fault) : hostWrite off v s ≠ .fault f := by
  unfold hostWrite
  split
  · split
    · cases hw : decode v with
      | error e => rw [commandWrite_of_error hw]; nofun
      | ok i => rw [commandWrite_of_decode hw]; exact exec_ne_fault hs i f
    · exact configWrite_ne_fault _ _ f
    · exact configWrite_ne_fault _ _ f
    · exact configWrite_ne_fault _ _ f
    · split <;> nofun
    all_goals nofun
  · nofun

theorem land_ne_fault {s : State} (hs : s.Inv) (m : Move) (f : Fault) : land m s ≠ .fault f := by
  cases m with
  | hostRead off =>
    simp only [land, hostRead]
    split
    · split
      · split <;> nofun
      · nofun
    · nofun
  | hostWrite off v => exact hostWrite_ne_fault hs off v f
  | setFlash addr v =>
    simp only [land, setFlash]
    split
    · nofun
    · split <;> nofun
  | powerLoss => nofun

/-- Settles O55: no line faults inside the invariant, which a run of lines carries along, and no move
itself faults. -/
theorem stepNeverFaults : Obligations.StepNeverFaults := by
  intro s f hs
  rw [State.inv_iff] at hs
  unfold step stepMachine
  split
  · split
    · nofun
    · exact land_ne_fault (hs.withHost s.illcmd _ s.env.reads s.env.unspecIx) _ f
  · exact run_ne_fault hs _ f

/-- Settles O54: `State.reset` is one state, and idle and not configured. -/
theorem resetMeetsTheInvariant : Obligations.ResetMeetsTheInvariant := by
  refine ⟨(State.inv_iff _).2 ?_, by simp [State.ready, State.reset]⟩
  exact ⟨rfl, rfl, List.length_replicate, List.length_replicate, nofun, nofun, nofun, rfl⟩

theorem run_sameConfig {s t : State} {n : Nat} (hs : s.Inv) (hcfgd : s.cfgd = true) (h : run n s = .next t) :
    s.sameConfig t := by
  refine (run_keeps_of_tick (P := fun u => u.Inv ∧ s.sameConfig u) (fun u b ms rs n hu => ⟨hu.1.withHost b ms rs n, hu.2⟩)
    (fun u v hu _ hh hv => ⟨tick_inv hu.1 hv hh, ?_⟩) ⟨hs, sameConfig_refl s⟩ h).2
  exact sameConfig_trans hu.2 (tick_sameConfig hu.1 (hu.2.1.trans hcfgd) hv)

/-- Settles O47: lines by `tick_sameConfig`; of the moves only a power loss changes a configured block's
configuration. -/
theorem configurationIsImmutable : Obligations.ConfigurationIsImmutable := by
  intro s t hs hcfgd h hpower
  rw [State.inv_iff] at hs
  obtain ⟨-, hrun⟩ | rfl | ⟨⟨n, m⟩, ms, hm, hw, hland⟩ := step_cases h
  · exact run_sameConfig hs hcfgd hrun
  · exact sameConfig_refl t
  have hu := hs.withHost s.illcmd ms s.env.reads s.env.unspecIx
  cases m with
  | hostRead off =>
    rw [(hostRead_onlyHost hland).1]
    exact sameConfig_refl s
  | hostWrite off v =>
    obtain rfl | rfl | ⟨-, hc, -⟩ | ⟨-, i, rfl⟩ | ⟨i, ha, hrun⟩ := hostWrite_cases hland
    · exact sameConfig_refl s
    · exact sameConfig_refl s
    · exact absurd (hcfgd.symm.trans hc) (by decide)
    · exact sameConfig_refl s
    · have hconfig := run_sameConfig (goto_firstLine_inv hu ha) hcfgd hrun
      exact hconfig
  | setFlash addr v =>
    obtain ⟨-, -, rfl⟩ := setFlash_next hland
    exact sameConfig_refl s
  | powerLoss => exact absurd (hpower n ms hm) (by simp [hw])

end Sys2Proof.Machine

/-! A running command keeps to its own lines and the result of the one before it, until it ends with one
of its kinds (10_state.md R14, 60_exceptions.md R171). -/

namespace Sys2Proof.Machine

open Sys2Proof

/-- The kinds a command can end with (60_exceptions.md R171). -/
def endKinds : Instr → List Kind
  | .configure => [.ok, .configError]
  | .read => [.ok, .notFound]
  | .write => [.ok, .ioError]
  | .erase => [.ok, .ioError]
  | .reset => [.ok]

/-- `RESULT` and `ERRADDR` are the same. -/
def State.sameResult (s t : State) : Prop :=
  t.kind = s.kind ∧ t.fop = s.fop ∧ t.lastOp = s.lastOp ∧ t.errAddr = s.errAddr

theorem sameResult_refl (s : State) : s.sameResult s := ⟨rfl, rfl, rfl, rfl⟩

/-- From `s` to `t` the command `i` ran on, to a phase of `Q`, leaving the result alone, or ended with one
of its kinds. -/
def State.RunsOrEnds (i : Instr) (Q : Phase → Prop) (s t : State) : Prop :=
  (Q t.ph ∧ s.sameResult t) ∨ ∃ kind ∈ endKinds i, ∃ fop addr, t = s.finish kind fop addr

theorem State.RunsOrEnds.mono {i : Instr} {Q R : Phase → Prop} {s t : State} (h : s.RunsOrEnds i Q t)
    (hQ : ∀ p, Q p → R p) : s.RunsOrEnds i R t :=
  h.imp_left fun hgoes => ⟨hQ _ hgoes.1, hgoes.2⟩

theorem runsOrEnds_of_flashUpdate {i : Instr} {Q : Phase → Prop} {s t : State} (h : t = s.flashUpdate t)
    (hp : Q t.ph) : s.RunsOrEnds i Q t := by
  refine .inl ⟨hp, ?_⟩
  rw [h]
  exact sameResult_refl s

/-! Where a line with a call goes. -/

section

variable {Q : Phase → Prop} {s t : State} (hs : Q s.ph)
include hs

theorem memWrite_goes {addr v : Word} {p q : Phase} (hp : Q p) (hq : Q q)
    (h : memWrite addr v p q s = .next t) : Q t.ph := by
  obtain ⟨-, ⟨-, rfl⟩ | ⟨ok, -, rfl⟩⟩ := memWrite_next h
  · exact hs
  · rw [State.goto_ph]
    split <;> assumption

theorem flashErase_goes {addr : Word} {f g : State → State} (hf : ∀ u, Q (f u).ph) (hg : ∀ u, Q (g u).ph)
    (h : flashErase addr f g s = .next t) : Q t.ph := by
  obtain ⟨-, ⟨-, rfl⟩ | ⟨ok, -, rfl⟩⟩ := flashErase_next h
  · exact hs
  · cases ok
    · exact hg _
    · exact hf _

theorem lockAcquire_goes {p : Phase} (hp : Q p) (h : lockAcquire p s = .next t) : Q t.ph := by
  obtain ⟨-, rfl⟩ | ⟨ok, -, rfl⟩ := lockAcquire_next h
  · exact hs
  · exact hp

end

/-! The lines of each command. -/

theorem configureLine_runsOrEnds {l : CLine} {s t : State} (h : configureLine l s = .next t) :
    s.RunsOrEnds .configure (∃ l', · = .configure l') t := by
  cases l with
  | c1 =>
    simp only [configureLine, raise] at h
    split at h
    · cases h; exact .inr ⟨.configError, by decide, _, _, rfl⟩
    · cases h; exact .inl ⟨⟨_, rfl⟩, sameResult_refl s⟩
  | c2 | c3 | c4 | c5 => cases h; exact .inl ⟨⟨_, rfl⟩, sameResult_refl s⟩
  | c6 => cases h; exact .inr ⟨.ok, by decide, _, _, rfl⟩

/-- Where `SCAN` goes on: at its own lines, or back to its caller. -/
def Caller.Goes (c : Caller) (p : Phase) : Prop := (∃ l, p = .scan c l) ∨ p = c.found ∨ p = c.notFound

/-- The command that called `SCAN`. -/
def Caller.command : Caller → Instr
  | .read => .read
  | .write => .write

theorem scanLine_runsOrEnds {c : Caller} {l : ScanLine} {s t : State} (h : scanLine c l s = .next t) :
    s.RunsOrEnds c.command c.Goes t := by
  have hresult : s.sameResult t := by
    rw [scanLine_frame h]
    exact sameResult_refl s
  refine .inl ⟨?_, hresult⟩
  cases l with
  | s4 | s7trailer =>
    rw [scanLine] at h
    obtain ⟨-, rfl⟩ := memRead_next h
    exact .inl ⟨_, rfl⟩
  | s7crc =>
    rw [scanLine] at h
    obtain ⟨-, rfl⟩ := crcBlock_next h
    exact .inl ⟨_, rfl⟩
  | s2 | s5 | s6 =>
    cases h
    rw [State.goto_ph]
    split <;> exact .inl ⟨_, rfl⟩
  | s9 =>
    simp only [scanLine] at h
    split at h
    · cases h; exact .inr (.inl rfl)
    · cases h; exact .inr (.inr rfl)
  | s1 | s3 | s7keep | s8 => cases h; exact .inl ⟨_, rfl⟩

/-- Where READ goes on: at its own lines, or, with the Cursor unknown, at `SCAN`. -/
def State.ReadGoes (s : State) (p : Phase) : Prop := (∃ l, p = .read l) ∨ (s.curv = false ∧ p = .scan .read .s1)

theorem readLine_runsOrEnds {l : RLine} {s t : State} (hs : s.ph = .read l) (h : readLine l s = .next t) :
    s.RunsOrEnds .read s.ReadGoes t := by
  cases l with
  | rd1 =>
    cases h
    refine .inl ⟨?_, sameResult_refl s⟩
    rw [State.goto_ph]
    split
    · exact .inl ⟨_, rfl⟩
    · exact .inr ⟨by simpa using ‹¬ s.curv = true›, rfl⟩
  | rd1NotFound => cases h; exact .inr ⟨.notFound, by decide, _, _, rfl⟩
  | rd2start => cases h; exact .inl ⟨.inl ⟨_, rfl⟩, sameResult_refl s⟩
  | rd2copy =>
    simp only [readLine] at h
    split at h
    · cases h; exact .inl ⟨.inl ⟨_, rfl⟩, sameResult_refl s⟩
    · split at h
      · obtain ⟨-, rfl⟩ := memRead_next h
        exact .inl ⟨.inl ⟨_, hs⟩, sameResult_refl s⟩
      · cases h
  | rd3 => cases h; exact .inr ⟨.ok, by decide, _, _, rfl⟩

/-- Of the lines of WRITE, those after the allocation of the slot. -/
def WLine.allocated : WLine → Bool
  | .w1 | .w2 => false
  | _ => true

/-- Where WRITE goes on: after the allocation, or, from W1, at the allocation or at `SCAN`. -/
def State.WriteGoes (s : State) (p : Phase) : Prop :=
  (∃ l, p = .write l ∧ l.allocated = true) ∨
    (s.ph = .write .w1 ∧ ((s.curv = true ∧ p = .write .w2) ∨ (s.curv = false ∧ p = .scan .write .s1)))

theorem writeLine_runsOrEnds {l : WLine} {s t : State} (hs : s.ph = .write l) (h : writeLine l s = .next t) :
    s.RunsOrEnds .write s.WriteGoes t := by
  have hown : l.allocated = true → s.WriteGoes s.ph := fun hl => .inl ⟨l, hs, hl⟩
  have hgoes : ∀ l', l'.allocated = true → s.WriteGoes (.write l') := fun l' hl => .inl ⟨l', rfl, hl⟩
  cases l with
  | w1 =>
    cases h
    refine .inl ⟨.inr ⟨hs, ?_⟩, sameResult_refl s⟩
    rw [State.goto_ph]
    split
    · exact .inl ⟨‹_›, rfl⟩
    · exact .inr ⟨by simpa using ‹¬ s.curv = true›, rfl⟩
  | w3erase =>
    exact runsOrEnds_of_flashUpdate (flashErase_frame h (fun _ => rfl) (fun _ => rfl))
      (flashErase_goes (hown rfl) (fun _ => hgoes _ rfl) (fun _ => hgoes _ rfl) h)
  | w4 => exact runsOrEnds_of_flashUpdate (lockAcquire_frame h) (lockAcquire_goes (hown rfl) (hgoes _ rfl) h)
  | w5program | w7program | w8program =>
    exact runsOrEnds_of_flashUpdate (memWrite_frame h) (memWrite_goes (hown rfl) (hgoes _ rfl) (hgoes _ rfl) h)
  | w6program =>
    simp only [writeLine] at h
    split at h
    · exact runsOrEnds_of_flashUpdate (memWrite_frame h) (memWrite_goes (hown rfl) (hgoes _ rfl) (hgoes _ rfl) h)
    · cases h
  | w3raise | wfRaise => cases h; exact .inr ⟨.ioError, by decide, _, _, rfl⟩
  | w10complete => cases h; exact .inr ⟨.ok, by decide, _, _, rfl⟩
  | w3 | w6test | w7test =>
    cases h
    refine .inl ⟨?_, sameResult_refl s⟩
    rw [State.goto_ph]
    split <;> exact hgoes _ rfl
  | w2 | w5reset | w5feed | w6start | w6feed | w7start | w7draw | w7feed | w8value | w9 | w10release
  | wfRelease => cases h; exact .inl ⟨hgoes _ rfl, sameResult_refl s⟩

theorem eraseLine_runsOrEnds {l : ELine} {s t : State} (hs : s.ph = .erase l) (h : eraseLine l s = .next t) :
    s.RunsOrEnds .erase (∃ l', · = .erase l') t := by
  have hown : ∃ l', s.ph = .erase l' := ⟨l, hs⟩
  cases l with
  | e2 =>
    exact runsOrEnds_of_flashUpdate (lockAcquire_frame h)
      (lockAcquire_goes (Q := (∃ l', · = .erase l')) hown ⟨_, rfl⟩ h)
  | e3erase =>
    exact runsOrEnds_of_flashUpdate (flashErase_frame h (fun _ => rfl) (fun _ => rfl))
      (flashErase_goes (Q := (∃ l', · = .erase l')) hown (fun _ => ⟨_, rfl⟩) (fun _ => ⟨_, rfl⟩) h)
  | e3raise => cases h; exact .inr ⟨.ioError, by decide, _, _, rfl⟩
  | e4complete => cases h; exact .inr ⟨.ok, by decide, _, _, rfl⟩
  | e3test =>
    cases h
    refine .inl ⟨?_, sameResult_refl s⟩
    rw [State.goto_ph]
    split <;> exact ⟨_, rfl⟩
  | e1 | e3start | e3release | e4release => cases h; exact .inl ⟨⟨_, rfl⟩, sameResult_refl s⟩

theorem resetLine_runsOrEnds {l : XLine} {s t : State} (h : resetLine l s = .next t) :
    s.RunsOrEnds .reset (∃ l', · = .reset l') t := by
  cases l with
  | x1 => cases h; exact .inl ⟨⟨_, rfl⟩, sameResult_refl s⟩
  | x2 => cases h; exact .inr ⟨.ok, by decide, _, _, rfl⟩

theorem scan_command (c : Caller) (l : ScanLine) : (Phase.scan c l).command = some c.command := by
  cases c <;> rfl

theorem Caller.Goes.command {c : Caller} {p : Phase} (h : c.Goes p) : p.command = some c.command := by
  obtain ⟨l, rfl⟩ | rfl | rfl := h
  · exact scan_command c l
  · cases c <;> rfl
  · cases c <;> rfl

theorem State.ReadGoes.command {s : State} {p : Phase} (h : s.ReadGoes p) : p.command = some .read := by
  obtain ⟨l, rfl⟩ | ⟨-, rfl⟩ := h <;> rfl

theorem State.WriteGoes.command {s : State} {p : Phase} (h : s.WriteGoes p) : p.command = some .write := by
  obtain ⟨l, rfl, -⟩ | ⟨-, ⟨-, rfl⟩ | ⟨-, rfl⟩⟩ := h <;> rfl

theorem tick_runsOrEnds {s t : State} (hs : s.ph ≠ .idle) (h : tick s = .next t) :
    ∃ i, s.ph.command = some i ∧ s.RunsOrEnds i (·.command = some i) t := by
  unfold tick at h
  split at h
  case h_1 hp => exact absurd hp hs
  case h_2 hp => exact ⟨_, hp ▸ rfl, (configureLine_runsOrEnds h).mono fun _ ⟨_, hl⟩ => hl ▸ rfl⟩
  case h_3 hp => exact ⟨_, hp ▸ scan_command _ _, (scanLine_runsOrEnds h).mono fun _ hq => hq.command⟩
  case h_4 hp => exact ⟨_, hp ▸ rfl, (readLine_runsOrEnds hp h).mono fun _ hq => hq.command⟩
  case h_5 hp => exact ⟨_, hp ▸ rfl, (writeLine_runsOrEnds hp h).mono fun _ hq => hq.command⟩
  case h_6 hp => exact ⟨_, hp ▸ rfl, (eraseLine_runsOrEnds hp h).mono fun _ ⟨_, hl⟩ => hl ▸ rfl⟩
  case h_7 hp => exact ⟨_, hp ▸ rfl, (resetLine_runsOrEnds h).mono fun _ ⟨_, hl⟩ => hl ▸ rfl⟩

/-- Settles O42: a line after which the block is still busy did not end its command. -/
theorem runningCommandKeepsTheResult : Obligations.RunningCommandKeepsTheResult := by
  intro s t h hbusy
  by_cases hs : s.ph = .idle
  · rw [tick, hs] at h
    cases h
    exact absurd hs hbusy
  · obtain ⟨i, -, ⟨-, hresult⟩ | ⟨kind, -, fop, addr, rfl⟩⟩ := tick_runsOrEnds hs h
    · exact hresult
    · exact absurd rfl hbusy

/-- The command `i` is running in `u`, or has ended with one of its kinds. -/
def State.InCourse (i : Instr) (u : State) : Prop :=
  u.ph.command = some i ∨ (u.ph = .idle ∧ u.lastOp = some i ∧ u.kind ∈ endKinds i)

theorem firstLine_command (i : Instr) : (firstLine i).command = some i := by cases i <;> rfl

theorem tick_inCourse {i : Instr} {u v : State} (hu : u.InCourse i) (hbusy : u.ph ≠ .idle) (h : tick u = .next v) :
    v.InCourse i := by
  obtain hc | ⟨hidle, -⟩ := hu
  · obtain ⟨j, hj, hruns⟩ := tick_runsOrEnds hbusy h
    obtain rfl : i = j := Option.some.inj (hc.symm.trans hj)
    obtain ⟨hcommand, -⟩ | ⟨kind, hkind, fop, addr, rfl⟩ := hruns
    · exact .inl hcommand
    · exact .inr ⟨rfl, hc, hkind⟩
  · exact absurd hidle hbusy

/-- Settles O41: along its course the command runs on or has ended with one of its kinds. -/
theorem commandsEndWithTheirKinds : Obligations.CommandsEndWithTheirKinds := by
  intro s t i n hidle hcfgd _ hcourse ht
  have hin : t.InCourse i :=
    course_keeps_of_tick (P := State.InCourse i) (fun u b ms rs k hu => hu) (fun u v hu hbusy _ hv =>
      tick_inCourse hu hbusy hv) (fun hnot => absurd ⟨hidle, hcfgd⟩ hnot) (fun _ => .inl (firstLine_command i)) hcourse
  obtain hc | ⟨-, hlast, hkind⟩ := hin
  · rw [ht] at hc
    cases hc
  · exact ⟨hlast, by cases i <;> exact hkind⟩

/-! A WRITE that starts from a known Cursor (60_exceptions.md R175). -/

/-- In the course of a WRITE given in `s` with a known Cursor: the Cursor is the one it started from, or the
block is past W9 and can only complete. -/
def State.WriteFromCursor (s u : State) : Prop :=
  (s.sameCursor u ∧ (u.ph = .idle ∨ ∃ l, u.ph = .write l)) ∨ u.ph = .write .w10release ∨ u.ph = .write .w10complete ∨
    (u.ph = .idle ∧ u.kind ≠ .ioError)

theorem sameCursor_trans {s t u : State} (h : s.sameCursor t) (h' : t.sameCursor u) : s.sameCursor u := by
  obtain ⟨hc, hl, hv⟩ := h
  obtain ⟨hc', hl', hv'⟩ := h'
  exact ⟨hc'.trans hc, hl'.trans hl, hv'.trans hv⟩

theorem sameCursor_refl (s : State) : s.sameCursor s := ⟨rfl, rfl, rfl⟩

theorem tick_writeFromCursor {s u v : State} (hc : s.curv = true) (hu : s.WriteFromCursor u)
    (hbusy : u.ph ≠ .idle) (h : tick u = .next v) : s.WriteFromCursor v := by
  obtain ⟨hcur, hidle | ⟨l, hp⟩⟩ | hp | hp | ⟨hidle, -⟩ := hu
  · exact absurd hidle hbusy
  · rw [tick, hp] at h
    obtain hsame | ⟨rfl, -⟩ := writeLine_cursor h
    · obtain ⟨⟨l', hl', -⟩ | ⟨-, ⟨-, hl'⟩ | ⟨hunknown, -⟩⟩, -⟩ | ⟨kind, -, fop, addr, rfl⟩ := writeLine_runsOrEnds hp h
      · exact .inl ⟨sameCursor_trans hcur hsame, .inr ⟨l', hl'⟩⟩
      · exact .inl ⟨sameCursor_trans hcur hsame, .inr ⟨_, hl'⟩⟩
      · rw [hcur.1, hc] at hunknown
        cases hunknown
      · exact .inl ⟨sameCursor_trans hcur hsame, .inl rfl⟩
    · cases h
      exact .inr (.inl rfl)
  · rw [tick, hp] at h
    cases h
    exact .inr (.inr (.inl rfl))
  · rw [tick, hp] at h
    cases h
    exact .inr (.inr (.inr ⟨rfl, nofun⟩))
  · exact absurd hidle hbusy

/-- Settles O44: only W9 moves the Cursor, and from there WRITE can only complete. -/
theorem failedWriteNeverMovesTheCursor : Obligations.FailedWriteNeverMovesTheCursor := by
  intro s t n hidle hcfgd _ hc hcourse ht hkind
  have hin : s.WriteFromCursor t :=
    course_keeps_of_tick (P := s.WriteFromCursor) (fun u b ms rs k hu => hu)
      (fun u v hu hbusy _ hv => tick_writeFromCursor hc hu hbusy hv)
      (fun hnot => absurd ⟨hidle, hcfgd⟩ hnot) (fun _ => .inl ⟨sameCursor_refl s, .inr ⟨.w1, rfl⟩⟩) hcourse
  obtain ⟨hcur, -⟩ | hp | hp | ⟨-, hne⟩ := hin
  · exact hcur
  · rw [ht] at hp
    cases hp
  · rw [ht] at hp
    cases hp
  · exact absurd hkind hne

end Sys2Proof.Machine

/-! What CONFIGURE, RESET, READ and ERASE leave as it was, along their courses and through a power loss
(40_geometry_configure.md R100, 41_scan_read.md R120, 43_erase_reset.md R160, R165). -/

namespace Sys2Proof.Machine

open Sys2Proof

/-- Outside the lines that program or erase, a power loss leaves the flash as it is. -/
theorem powerLoss_mem_of_no_operation {u : State} (hp : u.ph.programs = false) (he : ∀ page, ¬ u.Erases page) :
    u.powerLoss.mem = u.mem := by
  obtain h | ⟨hp', -⟩ | ⟨page, -, he', -⟩ := powerLoss_flashAfter u
  · exact h
  · rw [hp] at hp'
    cases hp'
  · exact absurd he' (he page)

/-- The command of the line `PH` names neither programs nor erases. -/
theorem no_operation_of_command {p : Phase} (hw : p.command ≠ some .write) (he : p.command ≠ some .erase) :
    p.programs = false ∧ (∀ l, p ≠ .write l) ∧ ∀ l, p ≠ .erase l := by
  cases p with
  | write | erase => simp [Phase.command] at hw he
  | idle | configure | scan | read | reset => exact ⟨rfl, nofun, nofun⟩

theorem keepsFlash_of_command {s u : State} (hmem : u.mem = s.mem) (hw : u.ph.command ≠ some .write)
    (he : u.ph.command ≠ some .erase) : s.keepsFlash u fun _ => True := by
  obtain ⟨hp, hnw, hne⟩ := no_operation_of_command hw he
  have hlost : u.powerLoss.mem = u.mem :=
    powerLoss_mem_of_no_operation hp fun page h => h.elim (fun h => hnw _ h.1) fun h => hne _ h.1
  exact keepsFlash_of_powerLoss (fun a _ => by rw [hmem]) (fun a _ => by rw [hlost, hmem])

/-! CONFIGURE and RESET. -/

theorem configureFrame_refl (s : State) : s.configureFrame s :=
  ⟨rfl, rfl, rfl, rfl, rfl, rfl, rfl, rfl, rfl, rfl, rfl, rfl, rfl⟩

/-- In the course of a CONFIGURE or RESET given in `s`. -/
def State.ConfigureCourse (s : State) (i : Instr) (u : State) : Prop :=
  s.configureFrame u ∧ (i = .reset → s.sameConfig u) ∧ (u.ph = .idle ∨ u.ph.command = some i)

theorem tick_configureCourse {s u v : State} {i : Instr} (hi : i = .configure ∨ i = .reset)
    (hu : s.ConfigureCourse i u) (hbusy : u.ph ≠ .idle) (h : tick u = .next v) : s.ConfigureCourse i v := by
  obtain ⟨⟨h1, h2, h3, h4, h5, h6, h7, h8, h9, h10, h11, h12, h13⟩, hconfig, hidle | hc⟩ := hu
  · exact absurd hidle hbusy
  have hgoes : v.ph = .idle ∨ v.ph.command = some i := by
    obtain ⟨j, hj, hruns⟩ := tick_runsOrEnds hbusy h
    obtain rfl : i = j := Option.some.inj (hc.symm.trans hj)
    obtain ⟨hcommand, -⟩ | ⟨kind, -, fop, addr, rfl⟩ := hruns
    · exact .inr hcommand
    · exact .inl rfl
  unfold tick at h
  split at h
  case h_1 hp => exact absurd hp hbusy
  case h_2 hp =>
    rw [hp] at hc
    cases hc
    refine ⟨?_, nofun, hgoes⟩
    rw [configureLine_frame h]
    exact ⟨h1, h2, h3, h4, h5, h6, h7, h8, h9, h10, h11, h12, h13⟩
  case h_7 =>
    refine ⟨?_, fun hreset => sameConfig_trans (hconfig hreset) (reset_sameConfig h), hgoes⟩
    rw [resetLine_frame h]
    exact ⟨h1, h2, h3, h4, h5, h6, h7, h8, h9, h10, h11, h12, h13⟩
  case h_3 c l hp => rw [hp, scan_command] at hc; cases c <;> cases hc <;> exact absurd hi (by decide)
  case h_4 hp | h_5 hp | h_6 hp => rw [hp] at hc; cases hc; exact absurd hi (by decide)

theorem course_configureCourse {s t : State} {i : Instr} {n : Nat} (hi : i = .configure ∨ i = .reset)
    (hidle : s.ph = .idle) (h : s.Course i n t) : s.ConfigureCourse i t :=
  course_keeps_of_tick (P := s.ConfigureCourse i) (fun _ _ _ _ _ hu => hu)
    (fun _ _ hu hbusy _ hv => tick_configureCourse hi hu hbusy hv)
    (fun _ => ⟨configureFrame_refl s, fun _ => sameConfig_refl s, .inl hidle⟩)
    (fun _ => ⟨configureFrame_refl s, fun _ => sameConfig_refl s, .inr (firstLine_command i)⟩) h

/-- Settles O37: every line of CONFIGURE and RESET keeps the frame, and none of them works on the flash. -/
theorem configureAndResetFrame : Obligations.ConfigureAndResetFrame := by
  intro s i hi
  refine ⟨fun t h => ?_, fun hidle n t hcourse => ?_⟩
  · obtain ⟨-, rfl⟩ | ⟨ha, -⟩ := exec_cases h
    · exact ⟨configureFrame_refl s, fun _ => sameConfig_refl s⟩
    · obtain ⟨hframe, hconfig, -⟩ := course_configureCourse (n := 0) hi ha.1 h
      exact ⟨hframe, hconfig⟩
  · obtain ⟨hframe, hconfig, hgoes⟩ := course_configureCourse hi hidle hcourse
    have hcommand : ∀ j, j = .write ∨ j = .erase → t.ph.command ≠ some j := by
      rintro j hj hc
      obtain hidle | hi' := hgoes
      · rw [hidle] at hc
        cases hc
      · rw [hi'] at hc
        cases hc
        obtain rfl | rfl := hi <;> exact absurd hj (by decide)
    exact ⟨hframe, hconfig, keepsFlash_of_command hframe.1 (hcommand _ (.inl rfl)) (hcommand _ (.inr rfl))⟩

/-! READ. -/

/-- A run of lines leaves `ILLCMD` alone. -/
theorem run_illcmd {n : Nat} {s t : State} (h : run n s = .next t) : t.illcmd = s.illcmd := by
  refine run_keeps (P := fun u => u.illcmd = s.illcmd) (fun u v hu _ hv => ?_) rfl h
  rw [State.elapse_illcmd, tick_frame hv]
  exact hu

/-- A command that is allowed leaves `ILLCMD` alone. -/
theorem exec_illcmd {s t : State} {i : Instr} (hi : i ≠ .configure) (h : exec i s = .next t)
    (ha : s.ph = .idle ∧ s.cfgd = true) : t.illcmd = s.illcmd := by
  obtain ⟨hnot, -⟩ | ⟨-, hrun⟩ := exec_cases h
  · exact absurd ⟨ha.1, ha.2.trans (by simpa using hi)⟩ hnot
  · exact (run_illcmd hrun).trans rfl

theorem readFrame_refl (s : State) : s.readFrame s :=
  ⟨rfl, sameConfig_refl s, rfl, rfl, rfl, rfl, rfl, rfl, rfl, fun _ => sameCursor_refl s⟩

/-- In the course of a READ given in `s`: at its own lines, the copy's index not beyond the payload, or at
`SCAN` because the Cursor was unknown. -/
def State.ReadCourse (s u : State) : Prop :=
  s.readFrame u ∧
    (u.ph = .idle ∨ (∃ l, u.ph = .read l ∧ (l = .rd2copy → u.wk.i.toNat ≤ s.payloadWords.toNat)) ∨
      (s.curv = false ∧ ∃ l, u.ph = .scan .read l))

theorem readFrame_of_scan {s u v : State} {c : Caller} {l : ScanLine} (hu : s.readFrame u) (hc : s.curv = false)
    (h : scanLine c l u = .next v) : s.readFrame v := by
  obtain ⟨hmem, hconfig, hwrec, hlock, hheld, hhung, hhw, hlen, hdrop, -⟩ := hu
  refine ⟨?_, sameConfig_trans hconfig (scan_sameConfig h), ?_, ?_, ?_, ?_, ?_, ?_, ?_,
    fun hk => absurd (hc.symm.trans hk) (by decide)⟩
  all_goals (rw [scanLine_frame h]; assumption)

/-- A line of READ changes a word of `RREC` below `K`, and keeps the frame. -/
theorem readFrame_of_read {s u v : State} {l : RLine} (hu : s.readFrame u)
    (hrrec : v.rrec = u.rrec ∨ ∃ j w, j < s.payloadWords.toNat ∧ v.rrec = u.rrec.set j w)
    (h : readLine l u = .next v) : s.readFrame v := by
  obtain ⟨hmem, hconfig, hwrec, hlock, hheld, hhung, hhw, hlen, hdrop, hcur⟩ := hu
  have hr : v.rrec.length = s.rrec.length ∧
      v.rrec.drop s.payloadWords.toNat = s.rrec.drop s.payloadWords.toNat := by
    obtain heq | ⟨j, w, hj, heq⟩ := hrrec
    · rw [heq]; exact ⟨hlen, hdrop⟩
    · rw [heq, List.length_set, List.drop_set_of_lt hj]; exact ⟨hlen, hdrop⟩
  refine ⟨?_, sameConfig_trans hconfig (read_sameConfig h), ?_, ?_, ?_, ?_, ?_, hr.1, hr.2, fun hk => ?_⟩
  case refine_7 =>
    refine sameCursor_trans (hcur hk) ?_
    rw [readLine_frame h]
    exact ⟨rfl, rfl, rfl⟩
  all_goals (rw [readLine_frame h]; assumption)

/-- What READ's lines do to the buffer and the copy's index. -/
theorem readLine_copies {u v : State} {l : RLine} (hp : u.ph = .read l) (h : readLine l u = .next v) :
    (v.rrec = u.rrec ∧ (v.ph = .read .rd2copy → v.wk.i = 0)) ∨
      (l = .rd2copy ∧ u.wk.i ≠ u.payloadWords ∧ v.wk.i = u.wk.i + 1 ∧
        ∃ w, v.rrec = u.rrec.set u.wk.i.toNat w) := by
  cases l with
  | rd1 =>
    cases h
    refine .inl ⟨rfl, ?_⟩
    rw [State.goto_ph]
    split <;> nofun
  | rd2start => cases h; exact .inl ⟨rfl, fun _ => rfl⟩
  | rd2copy =>
    simp only [readLine] at h
    split at h
    · cases h; exact .inl ⟨rfl, nofun⟩
    case isFalse hne =>
      split at h
      · obtain ⟨-, rfl⟩ := memRead_next h
        exact .inr ⟨rfl, hne, rfl, _, rfl⟩
      · cases h
  | rd1NotFound | rd3 => cases h; exact .inl ⟨rfl, nofun⟩

theorem tick_readCourse {s u v : State} (hu : s.ReadCourse u) (hbusy : u.ph ≠ .idle) (h : tick u = .next v) :
    s.ReadCourse v := by
  obtain ⟨hframe, hidle | ⟨l, hp, hi⟩ | ⟨hc, l, hp⟩⟩ := hu
  · exact absurd hidle hbusy
  · rw [tick, hp] at h
    have hpayload : u.payloadWords = s.payloadWords := congrArg (· / 4) hframe.2.1.2.2.2.1
    have hcopy : s.readFrame v ∧ (v.ph = .read .rd2copy → v.wk.i.toNat ≤ s.payloadWords.toNat) := by
      obtain ⟨hrrec, hzero⟩ | ⟨rfl, hne, hnext, w, hrrec⟩ := readLine_copies hp h
      · exact ⟨readFrame_of_read hframe (.inl hrrec) h, fun hv => by rw [hzero hv]; exact Nat.zero_le _⟩
      · have hlt : u.wk.i.toNat < s.payloadWords.toNat :=
          Nat.lt_of_le_of_ne (hi rfl) fun heq => hne (BitVec.eq_of_toNat_eq (heq.trans (by rw [hpayload])))
        refine ⟨readFrame_of_read hframe (.inr ⟨_, w, hlt, hrrec⟩) h, fun _ => ?_⟩
        rw [hnext, toNat_add_one hlt]
        exact hlt
    refine ⟨hcopy.1, ?_⟩
    obtain ⟨⟨l', hl'⟩ | ⟨hc, hl'⟩, -⟩ | ⟨kind, -, fop, addr, rfl⟩ := readLine_runsOrEnds hp h
    · exact .inr (.inl ⟨l', hl', fun heq => hcopy.2 (heq ▸ hl')⟩)
    · have hunknown : s.curv = false := by
        by_contra hk
        rw [(hframe.2.2.2.2.2.2.2.2.2 (by simpa using hk)).1] at hc
        exact hk hc
      exact .inr (.inr ⟨hunknown, _, hl'⟩)
    · exact .inl rfl
  · rw [tick, hp] at h
    refine ⟨readFrame_of_scan hframe hc h, ?_⟩
    obtain ⟨⟨l', hl'⟩ | hl' | hl', -⟩ | ⟨kind, -, fop, addr, rfl⟩ := scanLine_runsOrEnds h
    · exact .inr (.inr ⟨hc, l', hl'⟩)
    · exact .inr (.inl ⟨.rd2start, hl', nofun⟩)
    · exact .inr (.inl ⟨.rd1NotFound, hl', nofun⟩)
    · exact .inl rfl

theorem course_readCourse {s t : State} {n : Nat} (hidle : s.ph = .idle) (h : s.Course .read n t) : s.ReadCourse t :=
  course_keeps_of_tick (P := s.ReadCourse) (fun _ _ _ _ _ hu => hu) (fun _ _ hu hbusy _ hv => tick_readCourse hu hbusy hv)
    (fun _ => ⟨readFrame_refl s, .inl hidle⟩) (fun _ => ⟨readFrame_refl s, .inr (.inl ⟨.rd1, rfl, nofun⟩)⟩) h

/-- Settles O38: every line of READ and of its scan keeps the frame, and none of them works on the flash. -/
theorem readFrame : Obligations.ReadFrame := by
  intro s
  refine ⟨fun t h => ⟨?_, exec_illcmd (by decide) h⟩, fun hidle n t hcourse => ?_⟩
  · obtain ⟨-, rfl⟩ | ⟨ha, -⟩ := exec_cases h
    · exact readFrame_refl s
    · exact (course_readCourse (n := 0) ha.1 h).1
  · obtain ⟨hframe, hgoes⟩ := course_readCourse hidle hcourse
    have hcommand : ∀ i, i ≠ .read → t.ph.command ≠ some i := by
      intro i hi
      obtain hp | ⟨l, hp, -⟩ | ⟨-, l, hp⟩ := hgoes <;> rw [hp]
      · nofun
      · exact fun hc => hi (Option.some.inj hc).symm
      · exact fun hc => hi (Option.some.inj hc).symm
    exact ⟨hframe, keepsFlash_of_command hframe.1 (hcommand _ (by decide)) (hcommand _ (by decide))⟩

/-! Operations on the flash inside the invariant: which bytes they can change. -/

theorem readByte_writeWord_outside {m : Memory} (hm : m.wf = true) {addr : Word} (ha : addr.toNat % 4 = 0) (v : Word)
    {a : Nat} (h : ¬ inWords addr 1 a) : (m.writeWord addr v).readByte a = m.readByte a := by
  rw [readByte_writeWord hm ha]
  exact if_neg h

/-- A page of the Region: where it lies as words of the device. -/
theorem RegionPage.words {s : State} (hg : s.Geom) {page : Word} (hp : s.RegionPage page) :
    page.toNat % 4 = 0 ∧ page.toNat + 4 * s.deviceWords ≤ 2 ^ 32 := by
  obtain ⟨hdvd, -, hend⟩ := hp
  rw [deviceWords_eq hg.ok hg.latched]
  exact ⟨Nat.mod_eq_zero_of_dvd ((four_dvd_pageSize hg.ok).trans hdvd),
    hend.trans (State.geomFacts hg.ok).regionEnd_le⟩

/-- A byte outside the word that `PH` programs and outside the page that it erases is as it was. -/
theorem State.FlashAfter.readByte {u : State} {m : Memory} (h : u.FlashAfter m) (hu : u.Inv) {a : Nat}
    (hprogram : u.ph.programs = true → ¬ inWords u.wk.a 1 a)
    (herase : ∀ page, u.Erases page → ¬ inWords page u.deviceWords a) : m.readByte a = u.mem.readByte a := by
  obtain rfl | ⟨hp, v, rfl⟩ | ⟨page, f, he, rfl⟩ := h
  · rfl
  · exact readByte_writeWord_outside hu.mem_wf (hu.program_aligned hp) v (hprogram hp)
  · obtain ⟨hg, hpage⟩ := hu.erases_page he
    obtain ⟨ha, hend⟩ := RegionPage.words hg hpage
    exact readByte_fillWords hu.mem_wf ha f hend (herase page he)

/-! ERASE. -/

theorem eraseFrame_refl (s : State) : s.eraseFrame s := ⟨sameConfig_refl s, rfl, rfl, rfl, rfl, rfl, rfl⟩

/-- In the course of an ERASE given in `s`. -/
structure State.EraseCourse (s u : State) : Prop where
  inv : u.Inv
  frame : s.eraseFrame u
  line : u.ph = .idle ∨ ∃ l, u.ph = .erase l
  outside : ∀ a, ¬ s.inRegion a → u.mem.readByte a = s.mem.readByte a

theorem inRegion_congr {s u : State} (h : s.sameConfig u) (a : Nat) : u.inRegion a ↔ s.inRegion a := by
  obtain ⟨-, hfirst, hpages, -, hsize, -, -⟩ := h
  rw [State.inRegion, State.inRegion, hfirst, hpages, hsize]

/-- On ERASE's lines the flash operation is in the Region. -/
theorem State.EraseCourse.flashAfter {s u : State} (hu : s.EraseCourse u) {m : Memory} (h : u.FlashAfter m) {a : Nat}
    (ha : ¬ s.inRegion a) : m.readByte a = s.mem.readByte a := by
  have hout : ¬ u.inRegion a := fun h => ha ((inRegion_congr hu.frame.1 a).1 h)
  refine (h.readByte hu.inv (fun hp => ?_) fun page he hin => ?_).trans (hu.outside a ha)
  · obtain hp' | ⟨l, hp'⟩ := hu.line <;> (rw [hp'] at hp; cases hp)
  · obtain ⟨hg, -, hfirst, hend⟩ := hu.inv.erases_page he
    rw [inWords, deviceWords_eq hg.ok hg.latched] at hin
    exact hout ⟨by omega, by omega⟩

theorem tick_eraseCourse {s u v : State} (hu : s.EraseCourse u) (hbusy : u.ph ≠ .idle) (hh : u.hung = false)
    (h : tick u = .next v) : s.EraseCourse v := by
  have hflash := tick_flashAfter h
  have hinv := tick_inv hu.inv h hh
  obtain hidle | ⟨l, hp⟩ := hu.line
  · exact absurd hidle hbusy
  rw [tick, hp] at h
  obtain ⟨hconfig, hwrec, hrrec, hhw, hacc, hloc, hver⟩ := hu.frame
  refine ⟨hinv, ⟨sameConfig_trans hconfig (erase_sameConfig h), ?_, ?_, ?_, (eraseLine_acc h).trans hacc, ?_, ?_⟩, ?_,
    fun a ha => hu.flashAfter hflash ha⟩
  case refine_6 =>
    obtain ⟨hgoes, -⟩ | ⟨kind, -, fop, addr, rfl⟩ := eraseLine_runsOrEnds hp h
    · exact .inr hgoes
    · exact .inl rfl
  all_goals (rw [eraseLine_frame h]; assumption)

theorem course_eraseCourse {s t : State} {n : Nat} (hs : s.Inv) (hidle : s.ph = .idle) (h : s.Course .erase n t) :
    s.EraseCourse t :=
  course_keeps_of_tick (P := s.EraseCourse) (fun _ b ms rs n hu => ⟨hu.inv.withHost b ms rs n, hu.frame, hu.line,
    hu.outside⟩)
    (fun _ _ hu hbusy hh hv => tick_eraseCourse hu hbusy hh hv)
    (fun _ => ⟨hs, eraseFrame_refl s, .inl hidle, fun _ _ => rfl⟩)
    (fun ha => ⟨goto_firstLine_inv hs ha, eraseFrame_refl s, .inr ⟨.e1, rfl⟩, fun _ _ => rfl⟩) h

/-- Settles O40: every line of ERASE keeps the frame, and its erases are of pages of the Region, completed
or cut by a power loss. -/
theorem eraseFrame : Obligations.EraseFrame := by
  intro s hs
  rw [State.inv_iff] at hs
  refine ⟨fun t h => ?_, fun hidle n t hcourse => ?_⟩
  · obtain ⟨hnot, rfl⟩ | ⟨ha, -⟩ := exec_cases h
    · exact ⟨eraseFrame_refl s, exec_illcmd (by decide) h, fun _ _ => rfl⟩
    · have ht := course_eraseCourse (n := 0) hs ha.1 h
      exact ⟨ht.frame, exec_illcmd (by decide) h, ht.outside⟩
  · have ht := course_eraseCourse hs hidle hcourse
    exact ⟨ht.frame, keepsFlash_of_powerLoss ht.outside fun a ha => ht.flashAfter (powerLoss_flashAfter t) ha⟩

end Sys2Proof.Machine

/-! The flash port's operations, completed or cut by a power loss (20_memory.md R47, R48,
70_reset_and_hazards.md R190, R191). -/

namespace Sys2Proof.Machine

open Sys2Proof

/-- Settles O21: the answer chooses the value (`programmed_mem`), and one word is written. -/
theorem programChangesOnlyItsWord : Obligations.ProgramChangesOnlyItsWord := by
  intro s addr v p q hm ha
  refine ⟨fun h => ⟨_, memWrite_of_hangs ha h, rfl, rfl, rfl, rfl⟩, fun ok h => ?_⟩
  have hblank : s.useReply.blank addr = (s.mem.readWord addr == s.hw.erasedWord) := rfl
  have hword : ∀ u, ((s.useReply.programmed addr v ok).mem).readWord addr = u ↔
      (if ok && s.useReply.blank addr then v else s.env.drawAt 0) = u := by
    intro u
    rw [programmed_mem]
    exact (readWord_writeWord_same (m := s.useReply.mem) hm ha _) ▸ Iff.rfl
  refine ⟨((s.useReply.programmed addr v ok).emit (.memWrite addr v ok)).goto (if ok then p else q), ?_, rfl, ?_, ?_, ?_,
    ?_⟩
  · rw [memWrite_of_aligned ha, h]
  · rintro ⟨rfl, hb⟩
    exact (hword v).2 (if_pos (by simp [hblank, hb]))
  · intro hcase
    refine (hword _).2 (if_neg ?_)
    rw [hblank]
    obtain rfl | hne := hcase
    · simp
    · simp [hne]
  · intro a hout
    exact programmed_readByte (s := s.useReply) hm ha v ok hout
  · simp

theorem isPage_aligned {s : State} {addr : Word} (h : s.isPage addr = true) :
    addr.toNat % 4 = 0 ∧ 4 * s.deviceWords = s.hw.pageSize.toNat := by
  obtain ⟨-, hfour, hpage⟩ := (isPage_iff s addr).1 h
  exact ⟨Nat.mod_eq_zero_of_dvd ((Nat.dvd_of_mod_eq_zero hfour).trans (Nat.dvd_of_mod_eq_zero hpage)),
    Nat.mul_div_cancel' (Nat.dvd_of_mod_eq_zero hfour)⟩

/-- Settles O22: the answer chooses what fills the page (`erased_mem`). -/
theorem eraseChangesOnlyItsPage : Obligations.EraseChangesOnlyItsPage := by
  intro s addr p q hm hp hend
  obtain ⟨ha, hwords⟩ := isPage_aligned hp
  rw [← hwords] at hend
  refine ⟨fun h => ⟨_, flashErase_of_hangs hp h, rfl, rfl, rfl, rfl⟩, fun ok h => ?_⟩
  refine ⟨((s.useReply.erased addr ok).emit (.flashErase addr ok)).goto (if ok then p else q), ?_, rfl, fun k hk => ?_,
    fun a hout => ?_, by simp⟩
  · rw [flashErase_of_page hp, h]
    cases ok <;> rfl
  · rw [State.goto_mem, State.emit_mem, erased_mem]
    refine (readWord_fillWords (m := s.useReply.mem) hm ha _ hend hk).trans ?_
    cases ok <;> rfl
  · rw [State.goto_mem, State.emit_mem, erased_mem]
    exact readByte_fillWords (m := s.useReply.mem) hm ha _ hend hout

theorem reset_regValue {r : HostReg} (hw : ∀ i, r ≠ .wrec i) (hr : ∀ i, r ≠ .rrec i) :
    State.reset.regValue r = 0 := by
  cases r with
  | wrec i => exact absurd rfl (hw i)
  | rrec i => exact absurd rfl (hr i)
  | status | result | curVer => decide
  | cmd | errAddr | firstLoc | pageCount | recBytes | pageSize | slotBytes | entryCount | curLoc | unmapped => rfl

/-- Settles O8: of each register with a reset value, the value. -/
theorem resetRegisterValues : Obligations.ResetRegisterValues := ⟨rfl, rfl, rfl, fun _ => reset_regValue⟩

/-- Power loss puts every register that has a reset value at it (R190). -/
theorem powerLoss_regValue (s : State) {r : HostReg} (hw : ∀ i, r ≠ .wrec i) (hr : ∀ i, r ≠ .rrec i) :
    s.powerLoss.regValue r = State.reset.regValue r := by
  cases r with
  | wrec i => exact absurd rfl (hw i)
  | rrec i => exact absurd rfl (hr i)
  | status | result | curVer | cmd | errAddr | firstLoc | pageCount | recBytes | pageSize | slotBytes | entryCount
  | curLoc | unmapped => rfl

/-- Settles O9: `State.powerLoss` is `State.reset` but for what R32 leaves unspecified, the hardware, the
flash and the trace. -/
theorem powerLossResetsTheBlock : Obligations.PowerLossResetsTheBlock := fun s =>
  ⟨rfl, rfl, rfl, rfl, rfl, rfl, fun _ hw hr => (powerLoss_regValue s hw hr).trans (reset_regValue hw hr),
    fun hh => by rw [powerLoss_mem, cutFlash_of_not_hung hh]⟩

theorem programs_of_mem {p : Phase}
    (h : p ∈ [Phase.write .w5program, .write .w6program, .write .w7program, .write .w8program]) :
    p.programs = true := by
  simp only [List.mem_cons, List.not_mem_nil, or_false] at h
  obtain rfl | rfl | rfl | rfl := h <;> rfl

/-- Settles O10: what `cutFlash` leaves on each line, at the addresses the invariant gives. -/
theorem powerLossCutsAFlashOperation : Obligations.PowerLossCutsAFlashOperation := by
  intro s hs
  rw [State.inv_iff] at hs
  refine ⟨fun hh => by rw [powerLoss_mem, cutFlash_of_not_hung hh], fun hh hp => ?_, fun page hh he => ?_,
    fun hh hp => ?_⟩
  · have hprograms := programs_of_mem hp
    have ha := hs.program_aligned hprograms
    rw [powerLoss_mem, cutFlash_of_programs hh hprograms]
    exact ⟨readWord_writeWord_same hs.mem_wf ha _, fun a hout => readByte_writeWord_outside hs.mem_wf ha _ hout⟩
  · obtain ⟨hg, hpage⟩ := hs.erases_page he
    obtain ⟨ha, hend⟩ := RegionPage.words hg hpage
    rw [powerLoss_mem, cutFlash_of_erases hh he]
    exact ⟨fun k hk => readWord_fillWords hs.mem_wf ha _ hend hk,
      fun a hout => readByte_fillWords hs.mem_wf ha _ hend hout⟩
  · have hnone : s.ph.programs = false ∧ ∀ page, ¬ s.Erases page := by
      obtain hp | hp := hp <;> exact ⟨by rw [hp]; rfl, fun page he => by simp [State.Erases, hp] at he⟩
    exact powerLoss_mem_of_no_operation hnone.1 hnone.2

end Sys2Proof.Machine

/-! A command that runs alone comes to its end, or to a call that never returns: each line brings it nearer. -/

namespace Sys2Proof.Machine

open Sys2Proof

/-- A bound on the lines WRITE still executes from W2 on. -/
def State.storeLines (s : State) : Nat := 5 * s.fillerCount.toNat + 4 * s.payloadWords.toNat

/-- A bound on the lines the caller of `SCAN` executes after it. -/
def State.callerLines (s : State) : Caller → Nat
  | .read => s.payloadWords.toNat + 4
  | .write => s.storeLines + 17

/-- A bound on the lines the running command still executes from the line `p` on, its index being `i`. -/
def State.linesFrom (s : State) : Phase → Word → Nat
  | .idle, _ => 0
  | .configure .c1, _ => 6
  | .configure .c2, _ => 5
  | .configure .c3, _ => 4
  | .configure .c4, _ => 3
  | .configure .c5, _ => 2
  | .configure .c6, _ => 1
  | .scan c .s1, _ => s.callerLines c + 11 * s.entryCount.toNat + 2
  | .scan c .s2, i => s.callerLines c + 11 * (s.entryCount.toNat - i.toNat) + 1
  | .scan c .s3, i => s.callerLines c + 11 * (s.entryCount.toNat - i.toNat)
  | .scan c .s4, i => s.callerLines c + 11 * (s.entryCount.toNat - i.toNat) - 1
  | .scan c .s5, i => s.callerLines c + 11 * (s.entryCount.toNat - i.toNat) - 2
  | .scan c .s6, i => s.callerLines c + 11 * (s.entryCount.toNat - i.toNat) - 3
  | .scan c .s7crc, i => s.callerLines c + 11 * (s.entryCount.toNat - i.toNat) - 4
  | .scan c .s7trailer, i => s.callerLines c + 11 * (s.entryCount.toNat - i.toNat) - 5
  | .scan c .s7keep, i => s.callerLines c + 11 * (s.entryCount.toNat - i.toNat) - 6
  | .scan c .s8, i => s.callerLines c + 11 * (s.entryCount.toNat - i.toNat) - 7
  | .scan c .s9, _ => s.callerLines c
  | .read .rd1, _ => s.payloadWords.toNat + 11 * s.entryCount.toNat + 7
  | .read .rd1NotFound, _ => 1
  | .read .rd2start, _ => s.payloadWords.toNat + 3
  | .read .rd2copy, i => s.payloadWords.toNat - i.toNat + 2
  | .read .rd3, _ => 1
  | .write .w1, _ => s.storeLines + 11 * s.entryCount.toNat + 20
  | .write .w2, _ => s.storeLines + 16
  | .write .w3, _ => s.storeLines + 15
  | .write .w3erase, _ => s.storeLines + 14
  | .write .w3raise, _ => 1
  | .write .w4, _ => s.storeLines + 13
  | .write .w5reset, _ => s.storeLines + 12
  | .write .w5program, _ => s.storeLines + 11
  | .write .w5feed, _ => s.storeLines + 10
  | .write .w6start, _ => s.storeLines + 9
  | .write .w6test, i => s.storeLines - 4 * i.toNat + 8
  | .write .w6program, i => s.storeLines - 4 * i.toNat + 7
  | .write .w6feed, i => s.storeLines - 4 * i.toNat + 6
  | .write .w7start, _ => 5 * s.fillerCount.toNat + 7
  | .write .w7test, i => 5 * (s.fillerCount.toNat - i.toNat) + 6
  | .write .w7draw, i => 5 * (s.fillerCount.toNat - i.toNat) + 5
  | .write .w7program, i => 5 * (s.fillerCount.toNat - i.toNat) + 4
  | .write .w7feed, i => 5 * (s.fillerCount.toNat - i.toNat) + 3
  | .write .w8value, _ => 5
  | .write .w8program, _ => 4
  | .write .w9, _ => 3
  | .write .w10release, _ => 2
  | .write .w10complete, _ => 1
  | .write .wfRelease, _ => 2
  | .write .wfRaise, _ => 1
  | .erase .e1, _ => 2 * s.pageCount.toNat + 6
  | .erase .e2, _ => 2 * s.pageCount.toNat + 5
  | .erase .e3start, _ => 2 * s.pageCount.toNat + 4
  | .erase .e3test, i => 2 * (s.pageCount.toNat - i.toNat) + 3
  | .erase .e3erase, i => 2 * (s.pageCount.toNat - i.toNat) + 2
  | .erase .e3release, _ => 2
  | .erase .e3raise, _ => 1
  | .erase .e4release, _ => 2
  | .erase .e4complete, _ => 1
  | .reset .x1, _ => 2
  | .reset .x2, _ => 1

/-- A bound on the lines the running command still executes. -/
def State.linesLeft (s : State) : Nat := s.linesFrom s.ph s.wk.i

/-- The bound from a line on depends on the configuration. -/
theorem linesFrom_congr {s t : State} (h : s.sameConfig t) : t.linesFrom = s.linesFrom := by
  obtain ⟨-, hfirst, hpages, hrec, hpage, hslot, hcount⟩ := h
  funext p i
  obtain ⟨ph, cfgd, curv, illcmd, lockh, kind, fop, lastOp, errAddr, firstLoc, pageCount, recBytes, pageSize,
    slotBytes, entryCount, curLoc, curVer, wrec, rrec, wk, mem, ctrlHeld, acc, hung, hw, env, trace⟩ := t
  subst hfirst hpages hrec hpage hslot hcount
  cases p with
  | idle => rfl
  | configure l | scan c l | read l | write l | erase l | reset l => cases l <;> rfl

/-- A program goes on at a line that is nearer to the end, or at WF, or hangs. -/
theorem programNext_linesLeft {v : Word} {l onOk : WLine} {s t : State}
    (hok : s.linesFrom (.write onOk) s.wk.i < s.linesFrom (.write l) s.wk.i)
    (hfail : 2 < s.linesFrom (.write l) s.wk.i) (h : programNext v onOk s = .next t) :
    t.hung = true ∨ s.linesFrom t.ph t.wk.i < s.linesFrom (.write l) s.wk.i := by
  obtain ⟨-, ⟨-, rfl⟩ | ⟨ok, -, rfl⟩⟩ := memWrite_next h
  · exact .inl rfl
  · refine .inr ?_
    simp only [State.goto_ph, State.goto_wk, State.emit_wk, State.programmed_wk, State.useReply_wk]
    split
    · exact hok
    · exact hfail

section

variable {s : State} (hs : s.Inv)
include hs

theorem writeLine_linesLeft {l : WLine} {t : State} (hp : s.ph = .write l) (h : writeLine l s = .next t) :
    t.hung = true ∨ s.linesFrom t.ph t.wk.i < s.linesFrom (.write l) s.wk.i := by
  cases l with
  | w1 =>
    cases h
    rw [State.goto_ph]
    split <;> (simp only [State.linesFrom, State.callerLines]; omega)
  | w3erase =>
    obtain ⟨-, ⟨-, rfl⟩ | ⟨ok, -, rfl⟩⟩ := flashErase_next h
    · exact .inl rfl
    · cases ok <;> simp [State.linesFrom]
  | w4 =>
    obtain ⟨-, rfl⟩ | ⟨ok, -, rfl⟩ := lockAcquire_next h
    · exact .inl rfl
    · simp [State.linesFrom]
  | w5program | w8program => exact programNext_linesLeft (by simp [State.linesFrom]) (by simp [State.linesFrom]) h
  | w6program =>
    simp only [writeLine] at h
    split at h
    · exact programNext_linesLeft (by simp [State.linesFrom]) (by simp [State.linesFrom]) h
    · cases h
  | w7program => exact programNext_linesLeft (by simp [State.linesFrom]) (by simp [State.linesFrom]) h
  | w3 =>
    cases h
    rw [State.goto_ph]
    split <;> simp [State.linesFrom]
  | w6test =>
    obtain ⟨-, hi⟩ := hs.payload_index hp
    cases h
    rw [State.goto_ph]
    split
    · simp only [State.linesFrom, State.storeLines]; omega
    · simp [State.linesFrom]
  | w7test =>
    cases h
    rw [State.goto_ph]
    split <;> simp [State.linesFrom]
  | w6feed =>
    obtain ⟨-, hi⟩ := hs.payload_index_lt (.inr rfl) hp
    cases h
    have hnext := toNat_add_one hi
    simp only [State.linesFrom, State.storeLines, State.feed, State.goto_ph, State.goto_wk, State.setWork_wk, hnext]
    omega
  | w7feed =>
    obtain ⟨-, hi⟩ := hs.filler_index_lt (.inr (.inr rfl)) hp
    cases h
    have hnext := toNat_add_one hi
    simp only [State.linesFrom, State.feed, State.goto_ph, State.goto_wk, State.setWork_wk, hnext]
    omega
  | w2 | w3raise | w5reset | w5feed | w6start | w7start | w7draw | w8value | w9 | w10release | w10complete
  | wfRelease | wfRaise => cases h; simp [State.linesFrom, State.feed, State.finish]

theorem scanLine_linesLeft {c : Caller} {l : ScanLine} {t : State} (hp : s.ph = .scan c l)
    (h : scanLine c l s = .next t) : s.linesFrom t.ph t.wk.i < s.linesFrom (.scan c l) s.wk.i := by
  obtain ⟨hg, hline⟩ := hs.scan hp
  have hcaller : 4 ≤ s.callerLines c := by cases c <;> simp only [State.callerLines] <;> omega
  cases l with
  | s9 =>
    have hreturn : s.linesFrom c.found s.wk.i < s.callerLines c ∧ s.linesFrom c.notFound s.wk.i < s.callerLines c := by
      cases c <;> simp [Caller.found, Caller.notFound, State.linesFrom, State.callerLines]
    simp only [scanLine] at h
    split at h
    · cases h; exact hreturn.1
    · cases h; exact hreturn.2
  | s1 =>
    cases h
    simp only [State.linesFrom, State.goto_ph, State.goto_wk, State.setWork_wk]
    omega
  | s2 =>
    simp only [State.scanOk, Bool.and_eq_true, decide_eq_true_eq, BitVec.le_def] at hline
    cases h
    rw [State.goto_ph]
    split <;> (simp only [State.linesFrom, State.goto_wk]; omega)
  | s8 =>
    simp only [State.scanOk, Bool.and_eq_true, decide_eq_true_eq, BitVec.lt_def] at hline
    cases h
    have hnext := toNat_add_one hline.2
    simp only [State.linesFrom, State.goto_ph, State.goto_wk, State.setWork_wk, hnext]
    omega
  | s3 =>
    simp only [State.scanOk, Bool.and_eq_true, decide_eq_true_eq, BitVec.lt_def] at hline
    cases h
    simp only [State.linesFrom, State.goto_ph, State.goto_wk, State.setWork_wk]
    omega
  | s4 | s7trailer =>
    obtain ⟨-, hi, -⟩ := hs.scan_index hp (by decide)
    rw [BitVec.lt_def] at hi
    rw [scanLine] at h
    obtain ⟨-, rfl⟩ := memRead_next h
    simp only [State.linesFrom, State.goto_ph, State.goto_wk, State.setWork_wk, State.emit_wk]
    omega
  | s7crc =>
    obtain ⟨-, hi, -⟩ := hs.scan_index hp (by decide)
    rw [BitVec.lt_def] at hi
    rw [scanLine] at h
    obtain ⟨-, rfl⟩ := crcBlock_next h
    simp only [State.linesFrom, State.goto_ph, State.goto_wk, State.setWork_wk, State.accUnspecified_wk, State.emit_wk]
    omega
  | s5 | s6 =>
    obtain ⟨-, hi, -⟩ := hs.scan_index hp (by decide)
    rw [BitVec.lt_def] at hi
    cases h
    rw [State.goto_ph]
    split <;> (simp only [State.linesFrom, State.goto_wk]; omega)
  | s7keep =>
    obtain ⟨-, hi, -⟩ := hs.scan_index hp (by decide)
    rw [BitVec.lt_def] at hi
    simp only [scanLine] at h
    split at h <;>
      (cases h; simp only [State.linesFrom, State.goto_ph, State.goto_wk, State.setWork_wk]; omega)

theorem readLine_linesLeft {l : RLine} {t : State} (hp : s.ph = .read l) (h : readLine l s = .next t) :
    s.linesFrom t.ph t.wk.i < s.linesFrom (.read l) s.wk.i := by
  cases l with
  | rd1 =>
    cases h
    rw [State.goto_ph]
    split <;> (simp only [State.linesFrom, State.callerLines]; omega)
  | rd2copy =>
    simp only [readLine] at h
    split at h
    · cases h
      simp [State.linesFrom]
    case isFalse hne =>
      have hi := hs.copy_index_lt hp hne
      split at h
      · obtain ⟨-, rfl⟩ := memRead_next h
        simp only [State.setWork_ph, State.setRrec_ph, State.emit_ph, State.emit_wk, hp,
          State.setWork_wk, State.linesFrom, toNat_add_one hi]
        omega
      · cases h
  | rd1NotFound | rd2start | rd3 => cases h; simp [State.linesFrom, State.finish]

theorem eraseLine_linesLeft {l : ELine} {t : State} (hp : s.ph = .erase l) (h : eraseLine l s = .next t) :
    t.hung = true ∨ s.linesFrom t.ph t.wk.i < s.linesFrom (.erase l) s.wk.i := by
  obtain ⟨hg, hline⟩ := hs.erase hp
  cases l with
  | e2 =>
    obtain ⟨-, rfl⟩ | ⟨ok, -, rfl⟩ := lockAcquire_next h
    · exact .inl rfl
    · simp [State.linesFrom]
  | e3test =>
    cases h
    rw [State.goto_ph]
    split <;> simp [State.linesFrom]
  | e3erase =>
    have hi : s.wk.i.toNat < s.pageCount.toNat := of_decide_eq_true hline
    obtain ⟨-, ⟨-, rfl⟩ | ⟨ok, -, rfl⟩⟩ := flashErase_next h
    · exact .inl rfl
    · right
      cases ok
      · simp only [Bool.false_eq_true, if_false, State.goto_ph, State.linesFrom]
        omega
      · simp only [if_true, State.goto_ph, State.goto_wk, State.setWork_wk, State.emit_wk, State.erased_wk,
          State.useReply_wk, State.linesFrom, toNat_add_one hi]
        omega
  | e1 | e3start | e3release | e3raise | e4release | e4complete => cases h; simp [State.linesFrom, State.finish]

end

/-- A line of READ, WRITE or ERASE hangs or brings the command nearer to its end. -/
theorem tick_linesLeft {s t : State} {i : Instr} (hs : s.Inv) (hi : needsGeometry i = true)
    (hc : s.ph.command = some i) (h : tick s = .next t) : t.hung = true ∨ t.linesLeft < s.linesLeft := by
  unfold State.linesLeft
  unfold tick at h
  split at h
  case h_1 hp => rw [hp] at hc; cases hc
  case h_2 hp | h_7 hp => rw [hp] at hc; cases hc; cases hi
  case h_3 hp =>
    rw [linesFrom_congr (scan_sameConfig h), hp]
    exact .inr (scanLine_linesLeft hs hp h)
  case h_4 hp =>
    rw [linesFrom_congr (read_sameConfig h), hp]
    exact .inr (readLine_linesLeft hs hp h)
  case h_5 hp =>
    rw [linesFrom_congr (write_sameConfig h), hp]
    exact writeLine_linesLeft hs hp h
  case h_6 hp =>
    rw [linesFrom_congr (erase_sameConfig h), hp]
    exact eraseLine_linesLeft hs hp h

/-- What holds of `t` once the command `i`, given where no move is to come, has run as far as it goes. -/
structure State.Over (i : Instr) (t : State) : Prop where
  inv : t.Inv
  inCourse : t.InCourse i
  moves : t.env.moves = []

/-- In `t` a call hangs that was made in a state where `P` holds. -/
def State.HungFrom (P : State → Prop) (t : State) : Prop :=
  ∃ u, u.Inv ∧ P u ∧ u.ph.mayHang = true ∧ u.env.replyAt 0 = .hangs ∧ t = u.useReply.hang

/-- What `State.ready` says. -/
structure State.Ready (s : State) : Prop where
  inv : s.Inv
  idle : s.ph = .idle
  hung : s.hung = false
  moves : s.env.moves = []
  geom : s.Geom

theorem State.ready_iff (s : State) : s.ready = true ↔ s.Ready := by
  simp only [State.ready, Bool.and_eq_true, State.quiet_iff, State.inv_iff]
  constructor
  · rintro ⟨⟨⟨hinv, hph, hh, hmoves⟩, hcfgd⟩, hg⟩
    exact ⟨hinv, hph, hh, hmoves, hcfgd, hg, hinv.latched hcfgd⟩
  · rintro ⟨hinv, hph, hh, hmoves, hcfgd, hg, -⟩
    exact ⟨⟨⟨hinv, hph, hh, hmoves⟩, hcfgd⟩, hg⟩

/-- A ready state allows READ, WRITE and ERASE. -/
theorem State.Ready.allows {s : State} (hr : s.Ready) {i : Instr} (hi : needsGeometry i = true) : s.Allows i :=
  ⟨hr.idle, hr.geom.cfgd.trans (ne_configure_of_needsGeometry hi).symm, fun _ => hr.geom.ok⟩

section

variable {P : State → Prop} {i : Instr} (hi : needsGeometry i = true)
  (hkeep : ∀ u v, u.Inv → P u → u.ph.command = some i → v.hung = false → tick u = .next v → P v)
include hi hkeep

/-- A command with no move to come ends, or comes to a call that never returns, with what its lines keep. -/
theorem run_ends {n : Nat} {s : State} (hs : s.Inv) (hP : P s) (hin : s.InCourse i) (hmoves : s.env.moves = [])
    (hh : s.hung = false) (hn : s.linesLeft < n) :
    ∃ t, run n s = .next t ∧ t.Over i ∧ ((t.ph = .idle ∧ P t) ∨ t.HungFrom P) := by
  induction n generalizing s with
  | zero => exact absurd hn (Nat.not_lt_zero _)
  | succ n ih =>
    obtain hc | hidle := hin
    · have hbusy : s.ph ≠ .idle := fun hidle => by rw [hidle] at hc; cases hc
      cases ht : tick s with
      | fault f => exact absurd ht (tick_ne_fault hs f)
      | refused r => exact absurd ht (tick_ne_refused s r)
      | next v =>
        have hmv : v.env.moves = [] := (tick_moves ht).trans hmoves
        have hv := tick_inv hs ht hh
        have hinv := tick_inCourse (.inl hc) hbusy ht
        rw [run_of_tick (waiting_of_line ((busy_iff s).2 hbusy) hh hmoves) ht, v.elapse_of_no_moves hmv]
        obtain hhung | ⟨hmay, hreply, rfl⟩ := tick_hung ht
        · have hless := (tick_linesLeft hs hi hc ht).resolve_left (by rw [hhung, hh]; decide)
          exact ih hv (hkeep s v hs hP hc (hhung.trans hh) ht) hinv hmv (hhung.trans hh) (by omega)
        · exact ⟨_, run_of_waiting (by simp [State.waiting, State.hang]) n, ⟨hv, hinv, hmv⟩,
            .inr ⟨s, hs, hP, hmay, hreply, rfl⟩⟩
    · exact ⟨s, run_of_waiting (by simp [State.waiting, hidle.1]) _, ⟨hs, .inr hidle, hmoves⟩, .inl ⟨hidle.1, hP⟩⟩

/-- READ, WRITE and ERASE in a ready state run to their end or to a call that never returns. -/
theorem exec_over {s : State} (hr : s.ready = true) (hstart : P (s.goto (firstLine i))) :
    ∃ t, exec i s = .next t ∧ t.Over i ∧ ((t.ph = .idle ∧ P t) ∨ t.HungFrom P) := by
  rw [State.ready_iff] at hr
  have ha := hr.allows hi
  rw [exec_of_allows ha]
  refine run_ends hi hkeep (goto_firstLine_inv hr.inv ha) hstart (.inl (firstLine_command i)) hr.moves hr.hung ?_
  have hpages := s.pageCount.isLt
  have hslots := s.entryCount.isLt
  have hpayload := s.payloadWords.isLt
  have hfiller := s.fillerCount.isLt
  show s.linesFrom (firstLine i) s.wk.i < 2 ^ 40
  cases i with
  | configure | reset => cases hi
  | read | write | erase =>
    simp only [firstLine, State.linesFrom, State.storeLines]
    omega

end

end Sys2Proof.Machine

/-! The scan (41_scan_read.md R113, R118): line by line it computes the fold `State.scanned`. -/

namespace Sys2Proof.Machine

open Sys2Proof

/-- The Cursor, if it is known. -/
def State.cursor (s : State) : Option (Word × Ver) := if s.curv then some (s.curLoc, s.curVer) else none

/-- The best candidate of the running scan, if there is one. -/
def State.candidate (s : State) : Option (Word × Ver) := if s.wk.bf then some (s.wk.bloc, s.wk.bver) else none

/-- The version a candidate has to exceed: 0 when there is none (R113, S1). -/
def bestVersion (best : Option (Word × Ver)) : Ver := (best.map Prod.snd).getD 0

/-- The header of slot `n` is worth a check after the slots before it: magic, and a greater version. -/
def State.Promising (s : State) (n : Nat) : Prop :=
  headerMagic (s.mem.readWord (s.slotLoc n)) = Config.magic ∧
    bestVersion (s.scanned n).1 < headerVersion (s.mem.readWord (s.slotLoc n))

/-- The events of the scan up to the read of slot `n`'s header. -/
def State.headerEvents (s : State) (n : Nat) : List Event :=
  (s.scanned n).2 ++ [.memRead (s.slotLoc n) (s.mem.readWord (s.slotLoc n))]

/-- The scan's check of slot `n`'s CRC, an event. -/
def State.crcEvent (s : State) (n : Nat) : Event :=
  .crcBlock (s.slotLoc n) (s.slotWords - 1).toNat (s.slotCrc (s.slotLoc n))

/-- The word at the trailer of slot `n`. -/
def State.trailerWord (s : State) (n : Nat) : Word := s.mem.readWord (s.trailerLoc (s.slotLoc n))

/-- The scan's read of slot `n`'s trailer, an event. -/
def State.trailerEvent (s : State) (n : Nat) : Event := .memRead (s.trailerLoc (s.slotLoc n)) (s.trailerWord n)

theorem scanned_succ_of_not_promising {s : State} {n : Nat} (h : ¬ s.Promising n) :
    s.scanned (n + 1) = ((s.scanned n).1, s.headerEvents n) := by
  rw [State.scanned]
  exact if_neg (by simpa [State.Promising, bestVersion] using h)

theorem scanned_succ_of_promising {s : State} {n : Nat} (h : s.Promising n) :
    s.scanned (n + 1) =
      (if s.slotCrc (s.slotLoc n) = s.trailerWord n then
          some (s.slotLoc n, headerVersion (s.mem.readWord (s.slotLoc n))) else (s.scanned n).1,
        s.headerEvents n ++ [s.crcEvent n, s.trailerEvent n]) := by
  rw [State.scanned]
  refine (if_pos (by simpa [State.Promising, bestVersion] using h)).trans ?_
  simp only [beq_iff_eq]
  rfl

/-! What a scan of `s` has done before each of its lines. -/

/-- The candidate and the events are those of the scan of the first `n` slots. -/
def State.Scanned (s u : State) (n : Nat) : Prop :=
  u.candidate = (s.scanned n).1 ∧ u.wk.bver = bestVersion (s.scanned n).1

/-- What the scan started in `s` has computed before the line `l`. -/
def State.scanProgress (s u : State) : ScanLine → Prop
  | .s1 => u.trace = s.trace
  | .s2 | .s3 | .s4 =>
    s.Scanned u u.wk.i.toNat ∧ u.trace = s.trace ++ (s.scanned u.wk.i.toNat).2
  | .s5 =>
    s.Scanned u u.wk.i.toNat ∧ u.trace = s.trace ++ s.headerEvents u.wk.i.toNat ∧
      u.wk.h = s.mem.readWord (s.slotLoc u.wk.i.toNat)
  | .s6 =>
    s.Scanned u u.wk.i.toNat ∧ u.trace = s.trace ++ s.headerEvents u.wk.i.toNat ∧
      u.wk.h = s.mem.readWord (s.slotLoc u.wk.i.toNat) ∧ headerMagic u.wk.h = Config.magic
  | .s7crc =>
    s.Scanned u u.wk.i.toNat ∧ u.trace = s.trace ++ s.headerEvents u.wk.i.toNat ∧
      u.wk.h = s.mem.readWord (s.slotLoc u.wk.i.toNat) ∧ s.Promising u.wk.i.toNat
  | .s7trailer =>
    s.Scanned u u.wk.i.toNat ∧
      u.trace = s.trace ++ (s.headerEvents u.wk.i.toNat ++ [s.crcEvent u.wk.i.toNat]) ∧
      u.wk.h = s.mem.readWord (s.slotLoc u.wk.i.toNat) ∧ s.Promising u.wk.i.toNat ∧
      u.wk.c = s.slotCrc (s.slotLoc u.wk.i.toNat)
  | .s7keep =>
    s.Scanned u u.wk.i.toNat ∧
      u.trace = s.trace ++ (s.headerEvents u.wk.i.toNat ++ [s.crcEvent u.wk.i.toNat, s.trailerEvent u.wk.i.toNat]) ∧
      u.wk.h = s.mem.readWord (s.slotLoc u.wk.i.toNat) ∧ s.Promising u.wk.i.toNat ∧
      u.wk.c = s.slotCrc (s.slotLoc u.wk.i.toNat) ∧ u.wk.t = s.trailerWord u.wk.i.toNat
  | .s8 => s.Scanned u (u.wk.i.toNat + 1) ∧ u.trace = s.trace ++ (s.scanned (u.wk.i.toNat + 1)).2
  | .s9 => s.Scanned u s.entryCount.toNat ∧ u.trace = s.trace ++ (s.scanned s.entryCount.toNat).2

/-- What a command given in `s` has left alone in `u`: the configuration, the hardware, the flash, and the
answers and draws to come. -/
def State.Untouched (s u : State) : Prop :=
  s.sameConfig u ∧ u.hw = s.hw ∧ u.mem = s.mem ∧ u.env.replies = s.env.replies ∧
    u.env.replyIx = s.env.replyIx ∧ u.env.draws = s.env.draws ∧ u.env.drawIx = s.env.drawIx

theorem State.Untouched.config {s u : State} (h : s.Untouched u) : s.sameConfig u := h.1

theorem State.Untouched.hw {s u : State} (h : s.Untouched u) : u.hw = s.hw := h.2.1

theorem State.Untouched.mem {s u : State} (h : s.Untouched u) : u.mem = s.mem := h.2.2.1

theorem State.Untouched.refl (s : State) : s.Untouched s := ⟨sameConfig_refl s, rfl, rfl, rfl, rfl, rfl, rfl⟩

/-- `u` is at the line `l` of the scan that a command given in `s` makes. -/
def State.ScanAt (s u : State) (l : ScanLine) : Prop :=
  s.Untouched u ∧ s.curv = false ∧ s.sameCursor u ∧ s.scanProgress u l

theorem State.ScanAt.same {s u : State} {l : ScanLine} (h : s.ScanAt u l) : s.Untouched u := h.1

theorem State.ScanAt.unknown {s u : State} {l : ScanLine} (h : s.ScanAt u l) : s.curv = false := h.2.1

theorem State.ScanAt.cursor {s u : State} {l : ScanLine} (h : s.ScanAt u l) : s.sameCursor u := h.2.2.1

theorem State.ScanAt.progress {s u : State} {l : ScanLine} (h : s.ScanAt u l) : s.scanProgress u l := h.2.2.2

/-- `u` is where a command given in `s` goes on once it knows its Cursor, or that there is none. -/
def State.Located (s u : State) : Prop :=
  s.Untouched u ∧ u.cursor = s.cursorNow ∧ u.trace = s.trace ++ s.scanEvents

theorem State.Untouched.scan {s u v : State} {c : Caller} {l : ScanLine} (hu : s.Untouched u)
    (h : scanLine c l u = .next v) :
    s.Untouched v := by
  obtain ⟨hconfig, hhw, hmem, hreplies, hix, hdraws, hdix⟩ := hu
  refine ⟨sameConfig_trans hconfig (scan_sameConfig h), ?_, ?_, ?_, ?_, ?_, ?_⟩ <;>
    (rw [scanLine_frame h]; assumption)

/-! Slots read in `u` are the slots of `s`. -/

section

variable {s u : State} (h : s.Untouched u)
include h

theorem State.Untouched.slotAddr : u.slotAddr = s.slotAddr := by
  obtain ⟨-, hfirst, -, -, -, hslot, -⟩ := h.config
  funext i
  rw [State.slotAddr, State.slotAddr, hfirst, hslot]

theorem State.Untouched.slotWords : u.slotWords = s.slotWords := congrArg (· / 4) h.config.2.2.2.2.2.1

theorem State.Untouched.entryCount : u.entryCount = s.entryCount := h.config.2.2.2.2.2.2

theorem State.Untouched.readWord (a : Word) : u.mem.readWord a = s.mem.readWord a := by rw [h.mem]

theorem State.Untouched.crc (a : Word) :
    Machine.crc u.hw.crc (u.mem.readWords a (u.slotWords - 1).toNat) = s.slotCrc a := by
  rw [h.mem, h.hw, h.slotWords]; rfl

end

theorem slotLoc_index (s : State) (i : Word) : s.slotLoc i.toNat = s.slotAddr i := by simp [State.slotLoc]

section

variable {s u v : State} {c : Caller}

/-- S2 and S3: the loop's test and its address. -/
theorem scanAt_s2 (hat : s.ScanAt u .s2) (h : scanLine c .s2 u = .next v) :
    ∃ l, v.ph = .scan c l ∧ s.scanProgress v l := by
  obtain ⟨hbest, htrace⟩ := hat.progress
  cases h
  by_cases hi : u.wk.i = u.entryCount
  · have hn : u.wk.i.toNat = s.entryCount.toNat := by rw [hi, hat.same.entryCount]
    refine ⟨.s9, if_pos hi, ?_, ?_⟩
    · exact hn ▸ hbest
    · exact hn ▸ htrace
  · exact ⟨.s3, if_neg hi, hbest, htrace⟩

/-- A slot that is no better than the candidate leaves it. -/
theorem scanProgress_s8_of_not_promising {w : Phase} (hbest : s.Scanned u u.wk.i.toNat)
    (htrace : u.trace = s.trace ++ s.headerEvents u.wk.i.toNat) (h : ¬ s.Promising u.wk.i.toNat) :
    s.scanProgress (u.goto w) .s8 := by
  have hnext := scanned_succ_of_not_promising h
  refine ⟨⟨?_, ?_⟩, ?_⟩
  · show u.candidate = (s.scanned (u.wk.i.toNat + 1)).1
    rw [hnext]; exact hbest.1
  · show u.wk.bver = bestVersion (s.scanned (u.wk.i.toNat + 1)).1
    rw [hnext]; exact hbest.2
  · show u.trace = s.trace ++ (s.scanned (u.wk.i.toNat + 1)).2
    rw [hnext]; exact htrace

/-- S5 and S6: a slot without magic, or of a version that is not greater, is passed over. -/
theorem scanAt_s5 (hat : s.ScanAt u .s5) (h : scanLine c .s5 u = .next v) :
    ∃ l, v.ph = .scan c l ∧ s.scanProgress v l := by
  obtain ⟨hbest, htrace, hh⟩ := hat.progress
  cases h
  by_cases hm : headerMagic u.wk.h = Config.magic
  · exact ⟨.s6, if_neg (by simpa using hm), hbest, htrace, hh, hm⟩
  · refine ⟨.s8, if_pos (by simpa using hm), scanProgress_s8_of_not_promising hbest htrace fun hpr => hm ?_⟩
    rw [hh]
    exact hpr.1

theorem scanAt_s6 (hat : s.ScanAt u .s6) (h : scanLine c .s6 u = .next v) :
    ∃ l, v.ph = .scan c l ∧ s.scanProgress v l := by
  obtain ⟨hbest, htrace, hh, hm⟩ := hat.progress
  have hversion : headerVersion u.wk.h > u.wk.bver ↔ s.Promising u.wk.i.toNat := by
    rw [State.Promising, ← hh, ← hbest.2]
    exact ⟨fun hv => ⟨hm, hv⟩, And.right⟩
  cases h
  by_cases hv : headerVersion u.wk.h > u.wk.bver
  · exact ⟨.s7crc, if_pos hv, hbest, htrace, hh, hversion.1 hv⟩
  · exact ⟨.s8, if_neg hv, scanProgress_s8_of_not_promising hbest htrace (mt hversion.2 hv)⟩

variable (hu : u.Inv)
include hu

/-- The slot a line of the scan looks at. -/
theorem State.ScanAt.slot {l : ScanLine} (hat : s.ScanAt u l) (hp : u.ph = .scan c l)
    (hl : l ∈ [ScanLine.s4, .s5, .s6, .s7crc, .s7trailer, .s7keep]) : u.wk.a = s.slotLoc u.wk.i.toNat := by
  obtain ⟨-, -, ha⟩ := hu.scan_index hp hl
  rw [ha, hat.same.slotAddr, slotLoc_index]

/-- S4: the header is read. -/
theorem scanAt_s4 (hat : s.ScanAt u .s4) (hp : u.ph = .scan c .s4) (h : scanLine c .s4 u = .next v) :
    v.ph = .scan c .s5 ∧ s.scanProgress v .s5 := by
  obtain ⟨hbest, htrace⟩ := hat.progress
  have hslot := hat.slot hu hp (by decide)
  rw [scanLine] at h
  obtain ⟨-, rfl⟩ := memRead_next h
  refine ⟨rfl, hbest, ?_, ?_⟩
  · show u.trace ++ [.memRead u.wk.a (u.mem.readWord u.wk.a)] = s.trace ++ s.headerEvents u.wk.i.toNat
    rw [htrace, hslot, hat.same.readWord, State.headerEvents, List.append_assoc]
  · show u.mem.readWord u.wk.a = s.mem.readWord (s.slotLoc u.wk.i.toNat)
    rw [hslot, hat.same.readWord]

/-- S7's check: the CRC of the slot, its trailer, and the candidate kept when they agree. -/
theorem scanAt_s7crc (hat : s.ScanAt u .s7crc) (hp : u.ph = .scan c .s7crc) (h : scanLine c .s7crc u = .next v) :
    v.ph = .scan c .s7trailer ∧ s.scanProgress v .s7trailer := by
  obtain ⟨hbest, htrace, hh, hpr⟩ := hat.progress
  have hslot := hat.slot hu hp (by decide)
  rw [scanLine] at h
  obtain ⟨-, rfl⟩ := crcBlock_next h
  rw [hat.same.crc, hslot]
  refine ⟨rfl, hbest, ?_, hh, hpr, rfl⟩
  show u.trace ++ [.crcBlock (s.slotLoc u.wk.i.toNat) (u.slotWords - 1).toNat _] = _
  rw [htrace, hat.same.slotWords, List.append_assoc]
  rfl

theorem scanAt_s7trailer (hat : s.ScanAt u .s7trailer) (hp : u.ph = .scan c .s7trailer)
    (h : scanLine c .s7trailer u = .next v) : v.ph = .scan c .s7keep ∧ s.scanProgress v .s7keep := by
  obtain ⟨hbest, htrace, hh, hpr, hc⟩ := hat.progress
  have hslot : u.wk.a + 4 * (u.slotWords - 1) = s.trailerLoc (s.slotLoc u.wk.i.toNat) := by
    rw [hat.slot hu hp (by decide), hat.same.slotWords]; rfl
  rw [scanLine] at h
  obtain ⟨-, rfl⟩ := memRead_next h
  rw [hslot, hat.same.readWord]
  refine ⟨rfl, hbest, ?_, hh, hpr, hc, rfl⟩
  show u.trace ++ [s.trailerEvent u.wk.i.toNat] = _
  rw [htrace, List.append_assoc, List.append_assoc]
  rfl

theorem scanAt_s7keep (hat : s.ScanAt u .s7keep) (hp : u.ph = .scan c .s7keep)
    (h : scanLine c .s7keep u = .next v) : v.ph = .scan c .s8 ∧ s.scanProgress v .s8 := by
  obtain ⟨hbest, htrace, hh, hpr, hc, ht⟩ := hat.progress
  have hslot := hat.slot hu hp (by decide)
  have hnext := scanned_succ_of_promising hpr
  have hevents : u.trace = s.trace ++ (s.scanned (u.wk.i.toNat + 1)).2 := by rw [hnext]; exact htrace
  simp only [scanLine] at h
  split at h
  case isTrue heq =>
    rw [hc, ht] at heq
    rw [if_pos heq] at hnext
    cases h
    refine ⟨rfl, ⟨?_, ?_⟩, hevents⟩
    · show some (u.wk.a, headerVersion u.wk.h) = (s.scanned (u.wk.i.toNat + 1)).1
      rw [hnext, hslot, hh]
    · show headerVersion u.wk.h = bestVersion (s.scanned (u.wk.i.toNat + 1)).1
      rw [hnext, hh]; rfl
  case isFalse hne =>
    rw [hc, ht] at hne
    rw [if_neg hne] at hnext
    cases h
    refine ⟨rfl, ⟨?_, ?_⟩, hevents⟩
    · show u.candidate = (s.scanned (u.wk.i.toNat + 1)).1
      rw [hnext]; exact hbest.1
    · show u.wk.bver = bestVersion (s.scanned (u.wk.i.toNat + 1)).1
      rw [hnext]; exact hbest.2

/-- A line of the scan goes on in the scan, or hands the Cursor it found, or that there is none, to its caller. -/
theorem scanLine_scanAt {l : ScanLine} (hat : s.ScanAt u l) (hp : u.ph = .scan c l) (h : scanLine c l u = .next v) :
    (∃ l', v.ph = .scan c l' ∧ s.ScanAt v l') ∨
      (s.Located v ∧ ((v.ph = c.found ∧ v.curv = true) ∨ (v.ph = c.notFound ∧ s.sameCursor v))) := by
  have hsame := hat.same.scan h
  have hgoOn : l ≠ .s9 → (∃ l', v.ph = .scan c l' ∧ s.scanProgress v l') →
      ∃ l', v.ph = .scan c l' ∧ s.ScanAt v l' := by
    rintro hl ⟨l', hp', hprogress⟩
    have hcur := (scanLine_cursor h).resolve_right fun h9 => hl h9.1
    exact ⟨l', hp', hsame, hat.unknown, sameCursor_trans hat.cursor hcur, hprogress⟩
  cases l with
  | s1 =>
    refine .inl (hgoOn (by decide) ?_)
    have htrace : u.trace = s.trace := hat.progress
    cases h
    exact ⟨.s2, rfl, ⟨rfl, rfl⟩, htrace.trans (List.append_nil _).symm⟩
  | s2 => exact .inl (hgoOn (by decide) (scanAt_s2 hat h))
  | s3 =>
    refine .inl (hgoOn (by decide) ?_)
    obtain ⟨hbest, htrace⟩ := hat.progress
    cases h
    exact ⟨.s4, rfl, hbest, htrace⟩
  | s4 => exact .inl (hgoOn (by decide) ⟨_, scanAt_s4 hu hat hp h⟩)
  | s5 => exact .inl (hgoOn (by decide) (scanAt_s5 hat h))
  | s6 => exact .inl (hgoOn (by decide) (scanAt_s6 hat h))
  | s7crc => exact .inl (hgoOn (by decide) ⟨_, scanAt_s7crc hu hat hp h⟩)
  | s7trailer => exact .inl (hgoOn (by decide) ⟨_, scanAt_s7trailer hu hat hp h⟩)
  | s7keep => exact .inl (hgoOn (by decide) ⟨_, scanAt_s7keep hu hat hp h⟩)
  | s8 =>
    refine .inl (hgoOn (by decide) ?_)
    obtain ⟨hbest, htrace⟩ := hat.progress
    obtain ⟨-, hline⟩ := hu.scan hp
    simp only [State.scanOk, Bool.and_eq_true, decide_eq_true_eq, BitVec.lt_def] at hline
    cases h
    refine ⟨.s2, rfl, ?_⟩
    have hn := toNat_add_one hline.2
    exact ⟨hn.symm ▸ hbest, hn.symm ▸ htrace⟩
  | s9 =>
    obtain ⟨⟨hcandidate, -⟩, htrace⟩ := hat.progress
    have hevents : s.scanEvents = (s.scanned s.entryCount.toNat).2 := if_neg (by simp [hat.unknown])
    have hnow : s.cursorNow = u.candidate := by
      rw [hcandidate]
      exact if_neg (by simp [hat.unknown])
    right
    simp only [scanLine] at h
    split at h
    case isTrue hbf =>
      cases h
      exact ⟨⟨hsame, by rw [hnow, State.candidate, if_pos hbf]; rfl, by rw [hevents]; exact htrace⟩, .inl ⟨rfl, rfl⟩⟩
    case isFalse hbf =>
      cases h
      have hnone : u.cursor = none := by
        rw [State.cursor, hat.cursor.1, hat.unknown]; rfl
      exact ⟨⟨hsame, by rw [hnow, State.candidate, if_neg hbf]; exact hnone, by rw [hevents]; exact htrace⟩,
        .inr ⟨rfl, hat.cursor⟩⟩

end

end Sys2Proof.Machine

/-! READ in a ready state (41_scan_read.md R120, R121). -/

namespace Sys2Proof.Machine

open Sys2Proof

/-! Runs of words, one more at a time. -/

theorem readWords_succ (m : Memory) (addr : Word) (n : Nat) :
    m.readWords addr (n + 1) = m.readWords addr n ++ [m.readWord (wordAddr addr n)] := by
  simp [Memory.readWords, List.range_succ]

/-- Word `n` of a buffer whose first `n` words are `ws`, set. -/
theorem set_append_drop {ws buf : List Word} {n : Nat} (hws : ws.length = n) (hn : n < buf.length) (v : Word) :
    (ws ++ buf.drop n).set n v = ws ++ [v] ++ buf.drop (n + 1) := by
  rw [List.set_append_right _ _ hws.le, hws, Nat.sub_self, List.drop_eq_getElem_cons hn, List.set_cons_zero,
    List.append_assoc, List.singleton_append]

theorem cursor_of_curv {s : State} (h : s.curv = true) : s.cursor = some (s.curLoc, s.curVer) := if_pos h

theorem cursorNow_of_known {s : State} (h : s.curv = true) : s.cursorNow = some (s.curLoc, s.curVer) := if_pos h

theorem cursorNow_of_unknown {s : State} (h : s.curv = false) : s.cursorNow = s.scanAnswer := if_neg (by simp [h])

theorem cursor_congr {s u : State} (h : s.sameCursor u) : u.cursor = s.cursor := by
  obtain ⟨hc, hl, hv⟩ := h
  rw [State.cursor, State.cursor, hc, hl, hv]

theorem cursor_eq_none_iff (s : State) : s.cursor = none ↔ s.curv = false := by
  rw [State.cursor]
  split <;> simp [*]

/-- READ or WRITE, given in `s`, has done nothing yet. -/
def State.Begun (s u : State) : Prop := s.Untouched u ∧ s.sameCursor u ∧ u.trace = s.trace

theorem State.Begun.refl (s : State) : s.Begun s := ⟨State.Untouched.refl s, sameCursor_refl s, rfl⟩

/-- With a known Cursor there is no scan. -/
theorem State.Begun.located {s u : State} (h : s.Begun u) (hk : u.curv = true) : s.Located u := by
  obtain ⟨hsame, hcur, htrace⟩ := h
  have hs : s.curv = true := hcur.1 ▸ hk
  have hevents : s.scanEvents = [] := if_pos hs
  refine ⟨hsame, ?_, ?_⟩
  · rw [cursor_congr hcur, cursorNow_of_known hs, cursor_of_curv hs]
  · rw [hevents, htrace, List.append_nil]

theorem State.Begun.scanAt {s u : State} (h : s.Begun u) (hk : u.curv = false) : s.ScanAt u .s1 := by
  obtain ⟨hsame, hcur, htrace⟩ := h
  exact ⟨hsame, hcur.1 ▸ hk, hcur, htrace⟩

/-- READ's port event for payload word `j` of the slot at `loc`. -/
def State.copyEvent (s : State) (loc : Word) (j : Nat) : Event :=
  .memRead (wordAddr (loc + 4) j) (s.mem.readWord (wordAddr (loc + 4) j))

/-- READ, given in `s`, has copied `n` payload words of the slot the Cursor names. -/
def State.Copied (s u : State) (n : Nat) : Prop :=
  s.Untouched u ∧ u.curv = true ∧ u.cursor = s.cursorNow ∧
    u.trace = s.trace ++ s.scanEvents ++ (List.range n).map (s.copyEvent u.curLoc) ∧
    u.rrec = s.mem.readWords (u.curLoc + 4) n ++ s.rrec.drop n

/-- What READ, given in `s`, has done before each of its lines, and when it has ended. -/
def State.ReadAt (s u : State) : Prop :=
  match u.ph with
  | .read .rd1 => s.Begun u ∧ u.rrec = s.rrec
  | .scan .read l => s.ScanAt u l ∧ u.rrec = s.rrec
  | .read .rd1NotFound => s.Located u ∧ s.cursorNow = none ∧ s.sameCursor u ∧ u.rrec = s.rrec
  | .read .rd2start => s.Copied u 0
  | .read .rd2copy => s.Copied u u.wk.i.toNat
  | .read .rd3 => s.Copied u s.payloadWords.toNat
  | .idle =>
    (u.ended .read .ok .none 0 ∧ s.Copied u s.payloadWords.toNat) ∨
      (u.ended .read .notFound .none 0 ∧ s.Located u ∧ s.cursorNow = none ∧ s.sameCursor u ∧ u.rrec = s.rrec)
  | _ => False

theorem State.Untouched.read {s u v : State} {l : RLine} (hu : s.Untouched u) (h : readLine l u = .next v) :
    s.Untouched v := by
  obtain ⟨hconfig, hhw, hmem, hreplies, hix, hdraws, hdix⟩ := hu
  refine ⟨sameConfig_trans hconfig (read_sameConfig h), ?_, ?_, ?_, ?_, ?_, ?_⟩ <;>
    (rw [readLine_frame h]; assumption)

theorem State.Untouched.payloadWords {s u : State} (h : s.Untouched u) : u.payloadWords = s.payloadWords :=
  congrArg (· / 4) h.config.2.2.2.1

/-- Once it has its Cursor, READ has copied nothing yet. -/
theorem State.Located.copied {s u : State} (hu : s.Located u) (hk : u.curv = true) (hr : u.rrec = s.rrec) :
    s.Copied u 0 := by
  obtain ⟨hsame, hcursor, htrace⟩ := hu
  exact ⟨hsame, hk, hcursor, htrace.trans (List.append_nil _).symm, hr⟩

theorem readLine_readAt {s u v : State} {l : RLine} (hu : u.Inv) (hat : s.ReadAt u) (hp : u.ph = .read l)
    (h : readLine l u = .next v) : s.ReadAt v := by
  unfold State.ReadAt at hat
  rw [hp] at hat
  cases l with
  | rd1 =>
    obtain ⟨hbegun, hr⟩ := hat
    cases h
    by_cases hk : u.curv = true
    · rw [if_pos hk]
      exact State.Located.copied (hbegun.located hk) hk hr
    · rw [if_neg hk]
      exact ⟨hbegun.scanAt (by simpa using hk), hr⟩
  | rd1NotFound =>
    obtain ⟨hlocated, hnone, hcur, hr⟩ := hat
    cases h
    exact .inr ⟨⟨rfl, rfl, rfl, congrArg Phase.command hp, rfl⟩, hlocated, hnone, hcur, hr⟩
  | rd2start => cases h; exact hat
  | rd2copy =>
    obtain ⟨hsame, hk, hcursor, htrace, hr⟩ := hat
    simp only [readLine] at h
    split at h
    case isTrue hi =>
      have hn : u.wk.i.toNat = s.payloadWords.toNat := by rw [hi, hsame.payloadWords]
      cases h
      exact ⟨hsame, hk, hcursor, hn ▸ htrace, hn ▸ hr⟩
    case isFalse hi =>
      have hlt := hu.copy_index_lt hp hi
      have haddr : u.curLoc + 4 + 4 * u.wk.i = wordAddr (u.curLoc + 4) u.wk.i.toNat := add_four_mul _ _
      split at h
      case isTrue hbuf =>
        have hroom : u.wk.i.toNat < s.rrec.length := by
          rw [hr, List.length_append, readWords_length, List.length_drop] at hbuf
          omega
        obtain ⟨-, rfl⟩ := memRead_next h
        rw [haddr, hsame.readWord]
        have hnext := toNat_add_one hlt
        unfold State.ReadAt
        rw [State.setWork_ph, State.setRrec_ph, State.emit_ph, hp]
        refine ⟨hsame, hk, hcursor, ?_, ?_⟩
        · show u.trace ++ [s.copyEvent u.curLoc u.wk.i.toNat] =
            s.trace ++ s.scanEvents ++ (List.range (u.wk.i + 1).toNat).map (s.copyEvent u.curLoc)
          rw [htrace, hnext, List.range_succ, List.map_append, List.append_assoc]
          rfl
        · show u.rrec.set u.wk.i.toNat (s.mem.readWord (wordAddr (u.curLoc + 4) u.wk.i.toNat)) =
            s.mem.readWords (u.curLoc + 4) (u.wk.i + 1).toNat ++ s.rrec.drop (u.wk.i + 1).toNat
          rw [hr, hnext, set_append_drop (readWords_length _ _ _) hroom, readWords_succ]
      case isFalse => cases h
  | rd3 =>
    cases h
    exact .inl ⟨⟨rfl, rfl, rfl, congrArg Phase.command hp, rfl⟩, hat⟩

/-- READ's lines, and the scan's for it, do what `ReadAt` says. -/
theorem tick_readAt {s u v : State} (hu : u.Inv) (hat : s.ReadAt u) (hc : u.ph.command = some .read)
    (h : tick u = .next v) : s.ReadAt v := by
  unfold tick at h
  split at h
  case h_3 c l hp =>
    have hat' := hat
    unfold State.ReadAt at hat'
    rw [hp] at hat'
    cases c with
    | write => exact hat'.elim
    | read =>
      obtain ⟨hscan, hr⟩ := hat'
      have hr' : v.rrec = s.rrec := by rw [scanLine_frame h]; exact hr
      unfold State.ReadAt
      obtain ⟨l', hp', hscan'⟩ | ⟨hlocated, ⟨hp', hk⟩ | ⟨hp', hcur⟩⟩ := scanLine_scanAt hu hscan hp h
      · rw [hp']; exact ⟨hscan', hr'⟩
      · rw [hp']; exact hlocated.copied hk hr'
      · rw [hp']
        have hnone : s.cursorNow = none := by
          rw [← hlocated.2.1, cursor_eq_none_iff, hcur.1, hscan.unknown]
        exact ⟨hlocated, hnone, hcur, hr'⟩
  case h_4 hp => exact readLine_readAt hu hat hp h
  all_goals rename_i hp; rw [hp] at hc; cases hc

/-- READ's lines make no call that may hang. -/
theorem State.ReadAt.not_mayHang {s u : State} (h : s.ReadAt u) : u.ph.mayHang = false := by
  unfold State.ReadAt at h
  split at h
  case h_8 => exact h.elim
  all_goals rename_i hp; rw [hp]; rfl

/-- How READ in a ready state ends: it has copied the payload, or there is no current slot. -/
theorem exec_read_cases {s : State} (hr : s.ready = true) : ∃ t, exec .read s = .next t ∧
    ((t.ended .read .ok .none 0 ∧ s.Copied t s.payloadWords.toNat) ∨
      (t.ended .read .notFound .none 0 ∧ s.Located t ∧ s.cursorNow = none ∧ s.sameCursor t ∧ t.rrec = s.rrec)) := by
  obtain ⟨t, ht, -, ⟨hidle, hat⟩ | ⟨u, -, hat, hmay, -⟩⟩ := exec_over (P := s.ReadAt) (i := .read) rfl
    (fun u v hu hat hc _ h => tick_readAt hu hat hc h) hr ⟨⟨State.Untouched.refl s, sameCursor_refl s, rfl⟩, rfl⟩
  · unfold State.ReadAt at hat
    rw [hidle] at hat
    exact ⟨t, ht, hat⟩
  · rw [hat.not_mayHang] at hmay
    cases hmay

/-- READ with a current slot copies its payload. -/
theorem exec_read_of_current {s : State} (hr : s.ready = true) {loc : Word} {ver : Ver}
    (h : s.cursorNow = some (loc, ver)) : ∃ t, exec .read s = .next t ∧ t.ended .read .ok .none 0 ∧
      t.curv = true ∧ t.curLoc = loc ∧ t.curVer = ver ∧ t.mem = s.mem ∧
      t.rrec = s.mem.readWords (loc + 4) s.payloadWords.toNat ++ s.rrec.drop s.payloadWords.toNat ∧
      t.trace = s.trace ++ s.scanEvents ++ (List.range s.payloadWords.toNat).map (s.copyEvent loc) := by
  obtain ⟨t, ht, ⟨hended, hsame, hk, hcursor, htrace, hrrec⟩ | ⟨-, -, hnone, -⟩⟩ := exec_read_cases hr
  · rw [cursor_of_curv hk, h, Option.some.injEq, Prod.mk.injEq] at hcursor
    obtain ⟨rfl, rfl⟩ := hcursor
    exact ⟨t, ht, hended, hk, rfl, rfl, hsame.mem, hrrec, htrace⟩
  · rw [h] at hnone
    cases hnone

/-- READ without a current slot ends with `NotFound`. -/
theorem exec_read_of_no_current {s : State} (hr : s.ready = true) (h : s.cursorNow = none) :
    ∃ t, exec .read s = .next t ∧ t.ended .read .notFound .none 0 ∧ s.sameCursor t ∧ t.rrec = s.rrec ∧ s.Located t := by
  obtain ⟨t, ht, ⟨-, -, hk, hcursor, -⟩ | ⟨hended, hlocated, -, hcur, hrrec⟩⟩ := exec_read_cases hr
  · rw [cursor_of_curv hk, h] at hcursor
    cases hcursor
  · exact ⟨t, ht, hended, hcur, hrrec, hlocated⟩

/-- Settles O26: the copy's lines, with no scan before them. -/
theorem readFromAKnownCursor : Obligations.ReadFromAKnownCursor := by
  intro s hr hk
  obtain ⟨t, ht, hended, hcurv, hloc, hver, hmem, hrrec, htrace⟩ := exec_read_of_current hr (cursorNow_of_known hk)
  have hevents : s.scanEvents = [] := if_pos hk
  rw [hevents, List.append_nil] at htrace
  exact ⟨t, ht, hended, ⟨hcurv.trans hk.symm, hloc, hver⟩, hmem, hrrec, htrace⟩

/-- Settles O27: `scanLine_scanAt` for the scan and its adoption, then the copy's lines. -/
theorem readAdoptsTheScansAnswer : Obligations.ReadAdoptsTheScansAnswer := fun _ _ _ hr hk h =>
  exec_read_of_current hr ((cursorNow_of_unknown hk).trans h)

/-- Settles O28: the scan leaves everything but the trace, and READ's frame does the rest. -/
theorem readOfAnEmptyRegionIsNotFound : Obligations.ReadOfAnEmptyRegionIsNotFound := by
  intro s hr hk h
  obtain ⟨t, ht, hended, hcur, hrrec, hsame, -, htrace⟩ :=
    exec_read_of_no_current hr ((cursorNow_of_unknown hk).trans h)
  rw [State.ready_iff] at hr
  have hwrec := (course_readCourse (n := 0) hr.idle ht).1.2.2.1
  exact ⟨t, ht, hended, hcur, hrrec, hwrec, hsame.config, exec_illcmd (by decide) ht ⟨hr.idle, hr.geom.cfgd⟩,
    hsame.mem, htrace⟩

end Sys2Proof.Machine

/-! What the scan finds (41_scan_read.md R112, R115): the best of the slots before each one. -/

namespace Sys2Proof.Machine

open Sys2Proof

/-- Slot `k` is current among the first `n` slots (R112). -/
def State.IsBest (s : State) (n k : Nat) : Prop :=
  k < n ∧ s.validAt (s.slotLoc k) = true ∧ 1 ≤ s.versionAt (s.slotLoc k) ∧
    ∀ j, j < n → s.validAt (s.slotLoc j) = true →
      s.versionAt (s.slotLoc j) < s.versionAt (s.slotLoc k) ∨
        (s.versionAt (s.slotLoc j) = s.versionAt (s.slotLoc k) ∧ k ≤ j)

/-- The answer is the current one of the first `n` slots, or that there is none. -/
def State.BestOf (s : State) (n : Nat) : Option (Word × Ver) → Prop
  | none => ∀ j, j < n → s.validAt (s.slotLoc j) = true → s.versionAt (s.slotLoc j) = 0
  | some (loc, ver) => ∃ k, s.IsBest n k ∧ loc = s.slotLoc k ∧ ver = s.versionAt (s.slotLoc k)

theorem State.IsBest.unique {s : State} {n k k' : Nat} (h : s.IsBest n k) (h' : s.IsBest n k') : k = k' := by
  obtain ⟨hk, hvalid, -, hmax⟩ := h
  obtain ⟨hk', hvalid', -, hmax'⟩ := h'
  obtain hlt | ⟨heq, hle⟩ := hmax k' hk' hvalid'
  · obtain hlt' | ⟨heq', -⟩ := hmax' k hk hvalid
    · bv_omega
    · bv_omega
  · obtain hlt' | ⟨-, hle'⟩ := hmax' k hk hvalid
    · bv_omega
    · exact le_antisymm hle hle'

section

variable {s : State} {n : Nat} {best : Option (Word × Ver)} (h : s.BestOf n best)
include h

theorem State.BestOf.version_le {j : Nat} (hj : j < n) (hvalid : s.validAt (s.slotLoc j) = true) :
    s.versionAt (s.slotLoc j) ≤ bestVersion best := by
  cases best with
  | none =>
    rw [h j hj hvalid]
    exact Nat.zero_le _
  | some answer =>
    obtain ⟨loc, ver⟩ := answer
    obtain ⟨k, ⟨-, -, -, hmax⟩, -, rfl⟩ := h
    show _ ≤ s.versionAt (s.slotLoc k)
    have hle := hmax j hj hvalid
    bv_omega

/-- A slot that is not valid, or of no greater version, leaves the answer. -/
theorem State.BestOf.succ (hn : s.validAt (s.slotLoc n) = true → s.versionAt (s.slotLoc n) ≤ bestVersion best) :
    s.BestOf (n + 1) best := by
  cases best with
  | none =>
    intro j hj hvalid
    obtain hj | rfl := Nat.lt_succ_iff_lt_or_eq.1 hj
    · exact h j hj hvalid
    · exact BitVec.eq_of_toNat_eq (Nat.le_zero.1 (hn hvalid))
  | some answer =>
    obtain ⟨loc, ver⟩ := answer
    obtain ⟨k, ⟨hk, hkvalid, hone, hmax⟩, hloc, rfl⟩ := h
    refine ⟨k, ⟨hk.trans n.lt_succ_self, hkvalid, hone, fun j hj hvalid => ?_⟩, hloc, rfl⟩
    obtain hj | rfl := Nat.lt_succ_iff_lt_or_eq.1 hj
    · exact hmax j hj hvalid
    · have hle : s.versionAt (s.slotLoc j) ≤ s.versionAt (s.slotLoc k) := hn hvalid
      obtain hlt | heq := Nat.lt_or_eq_of_le hle
      · exact .inl hlt
      · exact .inr ⟨BitVec.eq_of_toNat_eq heq, hk.le⟩

/-- A valid slot of a greater version is the new answer. -/
theorem State.BestOf.of_greater (hvalid : s.validAt (s.slotLoc n) = true)
    (hn : bestVersion best < s.versionAt (s.slotLoc n)) :
    s.BestOf (n + 1) (some (s.slotLoc n, s.versionAt (s.slotLoc n))) := by
  have hone : 1 ≤ s.versionAt (s.slotLoc n) := by
    rw [BitVec.lt_def] at hn
    rw [BitVec.le_def]
    exact Nat.one_le_of_lt hn
  refine ⟨n, ⟨n.lt_succ_self, hvalid, hone, fun j hj hjvalid => ?_⟩, rfl, rfl⟩
  obtain hj | rfl := Nat.lt_succ_iff_lt_or_eq.1 hj
  · exact .inl (Nat.lt_of_le_of_lt (h.version_le hj hjvalid) hn)
  · exact .inr ⟨rfl, le_rfl⟩

end

theorem validAt_iff (s : State) (loc : Word) : s.validAt loc = true ↔
    headerMagic (s.mem.readWord loc) = Config.magic ∧ s.mem.readWord (s.trailerLoc loc) = s.slotCrc loc := by
  simp [State.validAt]

/-- The scan's fold keeps the best of the slots it has seen. -/
theorem scanned_bestOf (s : State) (n : Nat) : s.BestOf n (s.scanned n).1 := by
  induction n with
  | zero => exact fun j hj => absurd hj (Nat.not_lt_zero j)
  | succ n ih =>
    by_cases hpr : s.Promising n
    · rw [scanned_succ_of_promising hpr]
      by_cases hcrc : s.slotCrc (s.slotLoc n) = s.trailerWord n
      · rw [if_pos hcrc]
        exact ih.of_greater ((validAt_iff s _).2 ⟨hpr.1, hcrc.symm⟩) hpr.2
      · rw [if_neg hcrc]
        exact ih.succ fun hvalid => absurd ((validAt_iff s _).1 hvalid).2.symm hcrc
    · rw [scanned_succ_of_not_promising hpr]
      refine ih.succ fun hvalid => ?_
      by_contra hlt
      exact hpr ⟨((validAt_iff s _).1 hvalid).1, Nat.lt_of_not_le hlt⟩

theorem scanAnswer_bestOf (s : State) : s.BestOf s.entryCount.toNat s.scanAnswer := scanned_bestOf s _

/-- The scan answers with the current slot. -/
theorem scanAnswer_of_isCurrent {s : State} {k : Nat} (h : s.IsCurrent k) :
    s.scanAnswer = some (s.slotLoc k, s.versionAt (s.slotLoc k)) := by
  have hbest := scanAnswer_bestOf s
  cases hans : s.scanAnswer with
  | none =>
    rw [hans] at hbest
    obtain ⟨hk, hvalid, hone, -⟩ := h
    rw [hbest k hk hvalid] at hone
    exact absurd hone (by decide)
  | some answer =>
    rw [hans] at hbest
    obtain ⟨loc, ver⟩ := answer
    obtain ⟨k', hk', rfl, rfl⟩ := hbest
    obtain rfl := State.IsBest.unique h hk'
    rfl

/-- Settles O29: `scanned_bestOf` at the number of slots, and that at most one slot is current. -/
theorem scanFindsExactlyTheCurrentSlot : Obligations.ScanFindsExactlyTheCurrentSlot := by
  intro s _ _
  have hbest := scanAnswer_bestOf s
  refine ⟨fun loc ver => ⟨fun h => ?_, ?_⟩, fun h => ?_, fun h => ?_⟩
  · rw [h] at hbest
    exact hbest
  · rintro ⟨k, hk, rfl, rfl⟩
    exact scanAnswer_of_isCurrent hk
  · rintro ⟨k, hk⟩
    rw [scanAnswer_of_isCurrent hk] at h
    cases h
  · cases hans : s.scanAnswer with
    | none => rfl
    | some answer =>
      rw [hans] at hbest
      obtain ⟨k, hk, -⟩ := hbest
      exact absurd ⟨k, hk⟩ h

end Sys2Proof.Machine

/-! WRITE: the slot it goes to, and that it touches no other flash (42_write.md R130, R141). -/

namespace Sys2Proof.Machine

open Sys2Proof

/-- What W2 allocates once the Cursor is located (R131, R133). -/
theorem State.Located.allocate {s u : State} (h : s.Located u) :
    u.allocate.nloc = s.target ∧ u.allocate.nver = s.targetVersion := by
  obtain ⟨hsame, hcursor, -⟩ := h
  obtain ⟨-, hfirst, -, -, -, hslot, hcount⟩ := hsame.config
  unfold State.allocate State.target State.targetVersion
  rw [← hcursor, State.cursor]
  by_cases hk : u.curv = true
  · rw [if_pos hk, if_pos hk]
    exact ⟨by unfold State.nextLoc; rw [hfirst, hslot, hcount], rfl⟩
  · rw [if_neg hk, if_neg hk]
    exact ⟨hfirst, rfl⟩

/-- Only W2 sets the slot and the version to write. -/
theorem writeLine_allocation {l : WLine} {s t : State} (hl : l ≠ .w2) (h : writeLine l s = .next t) :
    t.wk.nloc = s.wk.nloc ∧ t.wk.nver = s.wk.nver := by
  cases l with
  | w2 => exact absurd rfl hl
  | w3erase =>
    obtain ⟨-, ⟨-, rfl⟩ | ⟨ok, -, rfl⟩⟩ := flashErase_next h
    · exact ⟨rfl, rfl⟩
    · cases ok <;> simp
  | w4 => obtain ⟨-, rfl⟩ | ⟨ok, -, rfl⟩ := lockAcquire_next h <;> exact ⟨rfl, rfl⟩
  | w5program | w7program | w8program =>
    obtain ⟨-, ⟨-, rfl⟩ | ⟨ok, -, rfl⟩⟩ := memWrite_next h
    · exact ⟨rfl, rfl⟩
    · simp
  | w6program =>
    simp only [writeLine] at h
    split at h
    · obtain ⟨-, ⟨-, rfl⟩ | ⟨ok, -, rfl⟩⟩ := memWrite_next h
      · exact ⟨rfl, rfl⟩
      · simp
    · cases h
  | w1 | w3 | w3raise | w5reset | w5feed | w6start | w6test | w6feed | w7start | w7test | w7draw | w7feed
  | w8value | w9 | w10release | w10complete | wfRelease | wfRaise => cases h; exact ⟨rfl, rfl⟩

/-- What a WRITE given in `s` knows of its slot at the line `p`. -/
def State.AllocatedAt (s u : State) : Phase → Prop
  | .write .w1 => s.Begun u
  | .scan .write l => s.ScanAt u l
  | .write .w2 => s.Located u
  | .write _ => u.wk.nloc = s.target
  | .idle => True
  | _ => False

theorem allocatedAt_of_allocated {s u : State} {l : WLine} (hl : l.allocated = true) :
    s.AllocatedAt u (.write l) ↔ u.wk.nloc = s.target := by
  cases l with
  | w1 | w2 => cases hl
  | _ => exact Iff.rfl

theorem storeFrame_refl (s : State) : s.storeFrame s := ⟨sameConfig_refl s, rfl, rfl, rfl⟩

/-- In the course of a WRITE given in `s`. -/
structure State.WriteCourse (s u : State) : Prop where
  inv : u.Inv
  frame : s.storeFrame u
  line : s.AllocatedAt u u.ph
  outside : ∀ a, s.outsideTarget a → u.mem.readByte a = s.mem.readByte a

/-- Where WRITE programs or erases, the slot is allocated. -/
theorem State.WriteCourse.nloc {s u : State} (hu : s.WriteCourse u) {l : WLine} (hp : u.ph = .write l)
    (hl : l.allocated = true) : u.wk.nloc = s.target := by
  have hline := hu.line
  rw [hp] at hline
  exact (allocatedAt_of_allocated hl).1 hline

/-- WRITE is what its course runs: no line of ERASE. -/
theorem State.WriteCourse.not_erase {s u : State} (hu : s.WriteCourse u) (l : ELine) : u.ph ≠ .erase l := by
  intro hp
  have hline := hu.line
  rw [hp] at hline
  exact hline

/-- A line that programs is a line of WRITE after the allocation. -/
theorem allocated_of_programs {p : Phase} (h : p.programs = true) : ∃ l, p = .write l ∧ l.allocated = true := by
  unfold Phase.programs at h
  split at h
  case h_5 => cases h
  all_goals exact ⟨_, rfl, rfl⟩

/-- On WRITE's lines the flash operation is in the target slot, or in the page it begins. -/
theorem State.WriteCourse.flashAfter {s u : State} (hu : s.WriteCourse u) {m : Memory} (h : u.FlashAfter m) {a : Nat}
    (ha : s.outsideTarget a) : m.readByte a = s.mem.readByte a := by
  obtain ⟨⟨-, hfirst, -, -, hsize, hslot, -⟩, -, -, hhw⟩ := hu.frame
  obtain ⟨hword, hpage⟩ := ha
  refine (h.readByte hu.inv (fun hp hin => hword ?_) fun page he hin => hpage ?_).trans (hu.outside a ⟨hword, hpage⟩)
  · obtain ⟨l, hl, hallocated⟩ := allocated_of_programs hp
    obtain ⟨hg, hisSlot, k, hk, haddr⟩ := hu.inv.program_word hp
    rw [inWords, haddr, slotWord_toNat hg.ok hg.latched hisSlot hk, hu.nloc hl hallocated] at hin
    have hwords : u.slotWords = s.slotWords := congrArg (· / 4) hslot
    rw [hwords] at hk
    exact ⟨by omega, by omega⟩
  · obtain ⟨hp, rfl⟩ | ⟨hp, -⟩ := he
    · obtain ⟨-, hline⟩ := hu.inv.write hp
      simp only [State.writeOk, Bool.and_eq_true] at hline
      have hstart := hline.2
      rw [hu.nloc hp rfl] at hin hstart
      rw [State.pageStart, hfirst, hsize] at hstart
      rw [State.deviceWords, hhw] at hin
      exact ⟨hstart, hin⟩
    · exact absurd hp (hu.not_erase _)

/-- A line of WRITE and of its scan keeps what it knows of the slot. -/
theorem tick_allocatedAt {s u v : State} (hu : u.Inv) (hat : s.AllocatedAt u u.ph) (hbusy : u.ph ≠ .idle)
    (h : tick u = .next v) : s.AllocatedAt v v.ph := by
  unfold tick at h
  split at h
  case h_3 c l hp =>
    rw [hp] at hat
    cases c with
    | read => exact hat.elim
    | write =>
      obtain ⟨l', hp', hscan⟩ | ⟨hlocated, ⟨hp', -⟩ | ⟨hp', -⟩⟩ := scanLine_scanAt hu hat hp h <;> rw [hp']
      · exact hscan
      · exact hlocated
      · exact hlocated
  case h_5 l hp =>
    rw [hp] at hat
    obtain ⟨⟨l', hp', hl'⟩ | ⟨hp1, ⟨hk, hp'⟩ | ⟨hk, hp'⟩⟩, -⟩ | ⟨kind, -, fop, addr, rfl⟩ := writeLine_runsOrEnds hp h
    · rw [hp', allocatedAt_of_allocated hl']
      by_cases hl : l.allocated = true
      · rw [← (allocatedAt_of_allocated hl).1 hat]
        exact (writeLine_allocation (fun h2 => by rw [h2] at hl; cases hl) h).1
      · cases l with
        | w1 =>
          cases h
          rw [State.goto_ph] at hp'
          split at hp' <;> cases hp'
          cases hl'
        | w2 => cases h; exact (State.Located.allocate hat).1
        | _ => exact absurd rfl hl
    · obtain rfl : l = .w1 := Phase.write.inj (hp.symm.trans hp1)
      cases h
      rw [hp']
      exact State.Begun.located hat hk
    · obtain rfl : l = .w1 := Phase.write.inj (hp.symm.trans hp1)
      cases h
      rw [hp']
      exact State.Begun.scanAt hat hk
    · exact trivial
  all_goals rename_i hp; rw [hp] at hat
  · exact absurd hp hbusy
  all_goals exact hat.elim

theorem tick_storeFrame {s u v : State} (hf : s.storeFrame u) (hat : s.AllocatedAt u u.ph) (h : tick u = .next v) :
    s.storeFrame v := by
  obtain ⟨hconfig, hwrec, hrrec, hhw⟩ := hf
  unfold tick at h
  split at h
  case h_3 =>
    refine ⟨sameConfig_trans hconfig (scan_sameConfig h), ?_, ?_, ?_⟩ <;> (rw [scanLine_frame h]; assumption)
  case h_5 =>
    refine ⟨sameConfig_trans hconfig (write_sameConfig h), ?_, ?_, ?_⟩ <;> (rw [writeLine_frame h]; assumption)
  case h_1 => cases h; exact ⟨hconfig, hwrec, hrrec, hhw⟩
  all_goals rename_i hp; rw [hp] at hat; exact hat.elim

theorem tick_writeCourse {s u v : State} (hu : s.WriteCourse u) (hbusy : u.ph ≠ .idle) (hh : u.hung = false)
    (h : tick u = .next v) : s.WriteCourse v where
  inv := tick_inv hu.inv h hh
  frame := tick_storeFrame hu.frame hu.line h
  line := tick_allocatedAt hu.inv hu.line hbusy h
  outside _ ha := hu.flashAfter (tick_flashAfter h) ha

/-- What the host does meanwhile is no part of what WRITE knows of its slot. -/
theorem State.AllocatedAt.withHost {s u : State} {p : Phase} (h : s.AllocatedAt u p) (b : Bool) (ms : List Timed)
    (rs : List Word) (n : Nat) : s.AllocatedAt (u.withHost b ms rs n) p := by
  unfold State.AllocatedAt at h ⊢
  split at h <;> exact h

theorem course_writeCourse {s t : State} {n : Nat} (hs : s.Inv) (hidle : s.ph = .idle) (h : s.Course .write n t) :
    s.WriteCourse t :=
  course_keeps_of_tick (P := s.WriteCourse) (i := .write)
    (fun _ b ms rs n hu => ⟨hu.inv.withHost b ms rs n, hu.frame, hu.line.withHost b ms rs n, hu.outside⟩)
    (fun _ _ hu hbusy hh hv => tick_writeCourse hu hbusy hh hv)
    (fun _ => ⟨hs, storeFrame_refl s, by rw [hidle]; trivial, fun _ _ => rfl⟩)
    (fun ha => ⟨goto_firstLine_inv hs ha, storeFrame_refl s, State.Begun.refl s, fun _ _ => rfl⟩) h

theorem course_keepsFlash_of_write {s t : State} {n : Nat} (hs : s.Inv) (hidle : s.ph = .idle)
    (h : s.Course .write n t) : s.keepsFlash t s.outsideTarget :=
  have ht := course_writeCourse hs hidle h
  keepsFlash_of_powerLoss ht.outside fun _ ha => ht.flashAfter (powerLoss_flashAfter t) ha

/-- Settles O39: every line of WRITE keeps the frame, and its flash operations are in the slot that W2
allocates or in the page it begins, completed or cut by a power loss. -/
theorem writeFrame : Obligations.WriteFrame := by
  intro s hs
  rw [State.inv_iff] at hs
  refine ⟨fun t h => ?_, fun hidle n t hcourse => ?_⟩
  · obtain ⟨-, rfl⟩ | ⟨ha, -⟩ := exec_cases h
    · exact ⟨storeFrame_refl s, exec_illcmd (by decide) h, fun _ _ => rfl⟩
    · have ht := course_writeCourse (n := 0) hs ha.1 h
      exact ⟨ht.frame, exec_illcmd (by decide) h, ht.outside⟩
  · exact ⟨(course_writeCourse hs hidle hcourse).frame, course_keepsFlash_of_write hs hidle hcourse⟩

/-! With two pages or more the Cursor's slot lies outside the target. -/

/-- With two pages or more the next slot of the ring lies after its slot, or, after the wrap, a page before it. -/
theorem nextLoc_disjoint {s : State} (hg : s.geomOK = true) (hl : s.latched = true) (hpages : 2 ≤ s.pageCount.toNat)
    {loc : Word} (h : s.isSlot loc = true) :
    loc.toNat + s.slotBytes.toNat ≤ (s.nextLoc loc).toNat ∨ (s.nextLoc loc).toNat + s.pageSize.toNat ≤ loc.toNat := by
  obtain ⟨i, hi, rfl⟩ := (isSlot_iff hg hl loc).1 h
  rw [nextLoc_slotLoc hg hl hi]
  split
  case isTrue hlast =>
    right
    have htiles := entryCount_mul_slotBytes hg hl
    have htwo : 2 * s.pageSize.toNat ≤ s.pageCount.toNat * s.pageSize.toNat := Nat.mul_le_mul_right _ hpages
    have hle : s.slotBytes.toNat ≤ s.pageSize.toNat :=
      Nat.le_of_dvd (pageSize_pos hg) (slotBytes_dvd_pageSize hg hl)
    rw [show s.entryCount.toNat = i + 1 by omega, Nat.succ_mul] at htiles
    rw [slotLoc_toNat hg hl hi]
    omega
  case isFalse hnext =>
    left
    rw [slotLoc_toNat hg hl hi, slotLoc_toNat hg hl (by omega), Nat.succ_mul, Nat.add_assoc]

/-- The Cursor's slot lies outside the slot, and the page, that a WRITE goes to. -/
theorem outsideTarget_of_cursor {s : State} (hg : s.Geom) (hk : s.curv = true) (hslot : s.isSlot s.curLoc = true)
    (hpages : 2 ≤ s.pageCount.toNat) {a : Nat} (ha : inWords s.curLoc s.slotWords.toNat a) : s.outsideTarget a := by
  have htarget : s.target = s.nextLoc s.curLoc := by rw [State.target, cursorNow_of_known hk]
  have hwords := slotWords_mul_four hg.ok hg.latched
  have hpage := deviceWords_eq hg.ok hg.latched
  have hle : s.slotBytes.toNat ≤ s.pageSize.toNat :=
    Nat.le_of_dvd (pageSize_pos hg.ok) (slotBytes_dvd_pageSize hg.ok hg.latched)
  have hdisjoint := nextLoc_disjoint hg.ok hg.latched hpages hslot
  rw [← htarget] at hdisjoint
  unfold inWords at ha
  constructor
  · unfold inWords
    omega
  · rintro ⟨-, hin⟩
    unfold inWords at hin
    omega

/-- Settles O45: WRITE's frame, and that the Cursor's slot is part of it. -/
theorem writeNeverTouchesTheCurrentSlot : Obligations.WriteNeverTouchesTheCurrentSlot := by
  intro s t n hs hidle hcfgd hk hpages hcourse
  rw [State.inv_iff] at hs
  have hg := hs.geom_of_cursor hk
  obtain ⟨hnow, hlost⟩ := course_keepsFlash_of_write hs hidle hcourse
  have hout : ∀ a, inWords s.curLoc s.slotWords.toNat a → s.outsideTarget a :=
    fun a => outsideTarget_of_cursor hg hk (hs.slot_of_cursor hk) hpages
  exact ⟨fun a ha => hnow a (hout a ha), fun u hp hu a ha => hlost u hp hu a (hout a ha)⟩

end Sys2Proof.Machine

/-! The slot image and the events that store it, word by word (30_encoding.md R71, 42_write.md R142). -/

namespace Sys2Proof.Machine

open Sys2Proof

/-- Word `k` of the slot body. -/
def State.bodyWord (s : State) (k : Nat) : Word := s.slotBody.getD k 0

/-- Word `k` of the slot image. -/
def State.imageWord (s : State) (k : Nat) : Word := s.slotImage.getD k 0

/-- The page erase, if there is one. -/
def State.eraseEvents (s : State) : List Event := if s.pageStart s.target then [.flashErase s.target true] else []

/-- The events of WRITE after its scan and before its first program. -/
def State.openEvents (s : State) : List Event := s.eraseEvents ++ [.lockAcquire, .crcReset]

/-- The events of drawing, if it is a filler word, and programming word `k` of the body. -/
def State.pendingEvents (s : State) (k : Nat) : List Event :=
  (if 1 + s.payloadWords.toNat ≤ k then [.rngNext (s.bodyWord k)] else []) ++
    [.memWrite (wordAddr s.target k) (s.bodyWord k) true]

/-- The events of word `k` of the body. -/
def State.wordEvents (s : State) (k : Nat) : List Event := s.pendingEvents k ++ [.crcAcc (s.bodyWord k)]

/-- The events of the first `k` words of the body. -/
def State.fedEvents (s : State) (k : Nat) : List Event := (List.range k).flatMap s.wordEvents

/-- The CRC the trailer holds. -/
def State.imageCrc (s : State) : Word := crc s.hw.crc s.slotBody

/-- The events of the trailer. -/
def State.trailerEvents (s : State) : List Event :=
  [.crcValue s.imageCrc, .memWrite (s.trailerLoc s.target) s.imageCrc true]

theorem fedEvents_succ (s : State) (k : Nat) : s.fedEvents (k + 1) = s.fedEvents k ++ s.wordEvents k := by
  simp [State.fedEvents, List.range_succ]

theorem programEvents_eq (loc : Word) (drawn : Bool) (j : Nat) (ws : List Word) :
    programEvents loc drawn j ws = (List.range ws.length).flatMap fun k =>
      (if drawn then [.rngNext (ws.getD k 0)] else []) ++
        [.memWrite (wordAddr loc (j + k)) (ws.getD k 0) true, .crcAcc (ws.getD k 0)] := by
  induction ws generalizing j with
  | nil => rfl
  | cons w ws ih =>
    rw [programEvents, ih, List.length_cons, List.range_succ_eq_map, List.flatMap_cons, List.flatMap_map]
    simp [Nat.add_assoc, Nat.add_comm 1]

section

variable {s : State} (hs : s.Inv) (hg : s.Geom)
include hs hg

theorem record_length : s.record.length = s.payloadWords.toNat := by
  rw [State.record, List.length_take, hs.wrec_length]
  exact Nat.min_eq_left (payloadWords_le_kmax hg.ok)

theorem slotBody_length : s.slotBody.length = s.slotWords.toNat - 1 := by
  have hwords := slotWords_eq hg.ok hg.latched
  rw [State.slotBody, List.length_cons, List.length_append, record_length hs hg, State.filler, List.length_map,
    List.length_range]
  omega

theorem slotImage_length : s.slotImage.length = s.slotWords.toNat := by
  have hwords := slotWords_eq hg.ok hg.latched
  rw [State.slotImage, List.length_append, slotBody_length hs hg, List.length_singleton]
  omega

theorem bodyWord_payload {i : Nat} (hi : i < s.payloadWords.toNat) : s.bodyWord (1 + i) = s.wrec.getD i 0 := by
  have hlen := record_length hs hg
  rw [State.bodyWord, State.slotBody, Nat.add_comm, List.getD_cons_succ,
    List.getD_append _ _ _ _ (by omega), State.record]
  simp [List.getD_eq_getElem?_getD, hi]

theorem bodyWord_filler {i : Nat} (hi : i < s.fillerCount.toNat) :
    s.bodyWord (1 + s.payloadWords.toNat + i) = s.env.drawAt i := by
  have hlen := record_length hs hg
  rw [State.bodyWord, State.slotBody, show 1 + s.payloadWords.toNat + i = s.payloadWords.toNat + i + 1 by omega,
    List.getD_cons_succ, List.getD_append_right _ _ _ _ (by omega), hlen, Nat.add_sub_cancel_left, State.filler]
  simp [List.getD_eq_getElem?_getD, hi]

theorem imageWord_body {k : Nat} (hk : k < s.slotWords.toNat - 1) : s.imageWord k = s.bodyWord k :=
  List.getD_append _ _ _ _ (by rw [slotBody_length hs hg]; exact hk)

theorem imageWord_trailer : s.imageWord (s.slotWords.toNat - 1) = s.imageCrc := by
  rw [State.imageWord, State.slotImage, List.getD_append_right _ _ _ _ (slotBody_length hs hg).le,
    slotBody_length hs hg, Nat.sub_self]
  rfl

theorem slotBody_take_succ {k : Nat} (hk : k < s.slotWords.toNat - 1) :
    s.slotBody.take (k + 1) = s.slotBody.take k ++ [s.bodyWord k] := by
  rw [← slotBody_length hs hg] at hk
  rw [List.take_succ_eq_append_getElem hk, State.bodyWord, List.getD_eq_getElem _ _ hk]

/-- The events of a successful WRITE, as those of its words one after another. -/
theorem storeEvents_eq : s.storeEvents =
    s.openEvents ++ s.fedEvents (s.slotWords.toNat - 1) ++ s.trailerEvents ++ [.lockRelease] := by
  have hwords := slotWords_eq hg.ok hg.latched
  have hlen := record_length hs hg
  have hpayload : programEvents s.target false 0 (header s.targetVersion :: s.record) =
      s.fedEvents (1 + s.payloadWords.toNat) := by
    rw [programEvents_eq, List.length_cons, hlen, Nat.add_comm]
    refine List.flatMap_congr fun k hk => ?_
    rw [List.mem_range] at hk
    have hword : (header s.targetVersion :: s.record).getD k 0 = s.bodyWord k :=
      (List.getD_append (header s.targetVersion :: s.record) s.filler 0 k (by rw [List.length_cons]; omega)).symm
    simp only [State.wordEvents, State.pendingEvents, if_neg (show ¬ 1 + s.payloadWords.toNat ≤ k by omega), hword,
      Nat.zero_add]
    rfl
  have hfiller : s.fedEvents (s.slotWords.toNat - 1) = s.fedEvents (1 + s.payloadWords.toNat) ++
      programEvents s.target true (1 + s.record.length) s.filler := by
    have hcount : s.filler.length = s.fillerCount.toNat := by simp [State.filler]
    rw [programEvents_eq, hcount, hlen, hwords, Nat.add_sub_cancel, State.fedEvents, List.range_add,
      List.flatMap_append, List.flatMap_map]
    refine congrArg _ (List.flatMap_congr fun k hk => ?_)
    rw [List.mem_range] at hk
    have hword : s.filler.getD k 0 = s.bodyWord (1 + s.payloadWords.toNat + k) := by
      rw [bodyWord_filler hs hg hk]
      simp [State.filler, List.getD_eq_getElem?_getD, hk]
    simp only [State.wordEvents, State.pendingEvents, if_pos (Nat.le_add_right _ k), hword]
    rfl
  rw [State.storeEvents, hpayload, hfiller]
  simp only [State.openEvents, State.eraseEvents, State.trailerEvents, State.imageCrc, List.append_assoc]
  rfl

end

end Sys2Proof.Machine

/-! The store's lines (42_write.md R134 to R140): what WRITE has stored, and what it was answered, line by line. -/

namespace Sys2Proof.Machine

open Sys2Proof

/-- The answers WRITE takes before those of the lock and of its programs. -/
def State.eraseCalls (s : State) : Nat := if s.pageStart s.target then 1 else 0

/-- A command given in `s` has taken `n` answers. -/
def State.Answered (s u : State) (n : Nat) : Prop := u.env.replies = s.env.replies ∧ u.env.replyIx = s.env.replyIx + n

theorem State.Answered.replyAt {s u : State} {n : Nat} (h : s.Answered u n) (k : Nat) :
    u.env.replyAt k = s.env.replyAt (n + k) := by
  obtain ⟨hreplies, hix⟩ := h
  rw [Env.replyAt, Env.replyAt, hreplies, hix, Nat.add_assoc]

/-- The page erase, if there is one, and the first `n` programs are answered `ok`. -/
def State.OkUpTo (s : State) (n : Nat) : Prop :=
  (s.pageStart s.target = true → s.env.replyAt 0 = .returns true) ∧
    ∀ k, k < n → s.env.replyAt (s.eraseCalls + 1 + k) = .returns true

theorem State.OkUpTo.succ {s : State} {n : Nat} (h : s.OkUpTo n)
    (hn : s.env.replyAt (s.eraseCalls + 1 + n) = .returns true) : s.OkUpTo (n + 1) := by
  refine ⟨h.1, fun k hk => ?_⟩
  obtain hk | rfl := Nat.lt_succ_iff_lt_or_eq.1 hk
  · exact h.2 k hk
  · exact hn

/-- WRITE, given in `s`, goes on: `calls` answers are taken, `n` programs done, the Cursor not moved. -/
def State.Going (s u : State) (calls n : Nat) : Prop :=
  s.Answered u calls ∧ s.OkUpTo n ∧ u.cursor = s.cursorNow ∧ u.wk.nver = s.targetVersion

/-- The words that are blank before the first program: the slot's, or the page's that it begins. -/
def State.targetWords (s : State) : Nat := if s.pageStart s.target then s.deviceWords else s.slotWords.toNat

/-- `done` words of the slot image are stored, the words after them are blank, `drawn` draws were made, and
`evs` are the events since the scan. -/
def State.Exact (s u : State) (done drawn : Nat) (evs : List Event) : Prop :=
  (∀ k, k < s.targetWords →
    u.mem.readWord (wordAddr s.target k) = if k < done then s.imageWord k else s.hw.erasedWord) ∧
  u.env.draws = s.env.draws ∧ u.env.drawIx = s.env.drawIx + drawn ∧ u.trace = s.trace ++ s.scanEvents ++ evs

/-- WRITE has programmed `done` words of the slot and fed `fed` of them to the CRC. -/
def State.Storing (s u : State) (fed done drawn : Nat) (evs : List Event) : Prop :=
  s.Going u (s.eraseCalls + 1 + done) done ∧
    (s.targetBlank = true → s.Exact u done drawn evs ∧ u.acc = crc s.hw.crc (s.slotBody.take fed))

/-- The draws made for the first `k` words of the body. -/
def State.drawsFor (s : State) (k : Nat) : Nat := k - (1 + s.payloadWords.toNat)

/-- Words `0 .. k-1` of the body are stored and fed. -/
def State.Fed (s u : State) (k : Nat) : Prop := s.Storing u k k (s.drawsFor k) (s.openEvents ++ s.fedEvents k)

/-- The same, and the filler word `k` is drawn. -/
def State.Drawn (s u : State) (k : Nat) : Prop :=
  s.Storing u k k (s.drawsFor (k + 1)) (s.openEvents ++ s.fedEvents k ++ [.rngNext (s.bodyWord k)])

/-- Words `0 .. k` of the body are stored, the last of them not fed yet. -/
def State.Programmed (s u : State) (k : Nat) : Prop :=
  s.Storing u k (k + 1) (s.drawsFor (k + 1)) (s.openEvents ++ s.fedEvents k ++ s.pendingEvents k)

/-- The program of some word of the slot has failed. -/
def State.ProgramFailed (s : State) (a : Word) (cursor : Option (Word × Ver)) : Prop :=
  ∃ j, j < s.slotWords.toNat ∧ a = wordAddr s.target j ∧ s.env.replyAt (s.eraseCalls + 1 + j) = .returns false ∧
    s.OkUpTo j ∧ cursor = s.cursorNow

/-- The page erase has failed, and `evs` are the events since the command was given. -/
def State.EraseFailed (s u : State) : Prop :=
  s.pageStart s.target = true ∧ s.env.replyAt 0 = .returns false ∧
    u.trace = s.trace ++ s.scanEvents ++ [.flashErase s.target false]

/-- The slot is stored and the Cursor moved to it; `evs` are the events since the scan. -/
def State.Stored (s u : State) (evs : List Event) : Prop :=
  s.OkUpTo s.slotWords.toNat ∧ u.cursor = some (s.target, s.targetVersion) ∧
    (s.targetBlank = true → s.Exact u s.slotWords.toNat s.fillerCount.toNat evs)

/-- The events since the scan when the slot is stored. -/
def State.slotEvents (s : State) : List Event :=
  s.openEvents ++ s.fedEvents (s.slotWords.toNat - 1) ++ s.trailerEvents

/-- What WRITE, given in `s`, has done before the line `p`, and when it has ended. -/
def State.StoreAt (s u : State) : Phase → Prop
  | .write .w3 | .write .w3erase => s.Located u ∧ u.wk.nver = s.targetVersion
  | .write .w3raise => s.EraseFailed u
  | .write .w4 => s.Going u s.eraseCalls 0 ∧ (s.targetBlank = true → s.Exact u 0 0 s.eraseEvents)
  | .write .w5reset =>
    s.Going u (s.eraseCalls + 1) 0 ∧ (s.targetBlank = true → s.Exact u 0 0 (s.eraseEvents ++ [.lockAcquire]))
  | .write .w5program => s.Fed u 0 ∧ u.wk.h = header s.targetVersion
  | .write .w5feed => s.Programmed u 0 ∧ u.wk.h = header s.targetVersion
  | .write .w6start => s.Fed u 1
  | .write .w6test | .write .w6program => s.Fed u (1 + u.wk.i.toNat)
  | .write .w6feed => s.Programmed u (1 + u.wk.i.toNat)
  | .write .w7start => s.Fed u (1 + s.payloadWords.toNat)
  | .write .w7test | .write .w7draw => s.Fed u (1 + s.payloadWords.toNat + u.wk.i.toNat)
  | .write .w7program =>
    s.Drawn u (1 + s.payloadWords.toNat + u.wk.i.toNat) ∧
      (s.targetBlank = true → u.wk.w = s.bodyWord (1 + s.payloadWords.toNat + u.wk.i.toNat))
  | .write .w7feed =>
    s.Programmed u (1 + s.payloadWords.toNat + u.wk.i.toNat) ∧
      (s.targetBlank = true → u.wk.w = s.bodyWord (1 + s.payloadWords.toNat + u.wk.i.toNat))
  | .write .w8value => s.Fed u (s.slotWords.toNat - 1)
  | .write .w8program =>
    s.Storing u (s.slotWords.toNat - 1) (s.slotWords.toNat - 1) s.fillerCount.toNat
      (s.openEvents ++ s.fedEvents (s.slotWords.toNat - 1) ++ [.crcValue s.imageCrc]) ∧
      (s.targetBlank = true → u.wk.t = s.imageCrc)
  | .write .w9 =>
    s.Storing u (s.slotWords.toNat - 1) s.slotWords.toNat s.fillerCount.toNat s.slotEvents
  | .write .w10release => s.Stored u s.slotEvents
  | .write .w10complete => s.Stored u s.storeEvents
  | .write .wfRelease | .write .wfRaise => s.ProgramFailed u.wk.a u.cursor
  | .idle =>
    (u.ended .write .ok .none 0 ∧ s.Stored u s.storeEvents) ∨
      (u.ended .write .ioError .pageErase s.target ∧ s.EraseFailed u) ∨
      ∃ a, u.ended .write .ioError .wordProgram a ∧ s.ProgramFailed a u.cursor
  | _ => True

/-! One word more. -/

theorem programmed_of_blank {s : State} {addr : Word} (h : s.mem.readWord addr = s.hw.erasedWord) (v : Word) :
    s.programmed addr v true = s.setMem (s.mem.writeWord addr v) := if_pos (by simp [State.blank, h])

/-- Word `done` of `n` words of which the rest is blank, written. -/
theorem readWord_write_next {loc : Word} {n : Nat} (haddr : ∀ k, k < n → (wordAddr loc k).toNat = loc.toNat + 4 * k)
    (hloc : loc.toNat % 4 = 0) {m : Memory} (hm : m.wf = true) {w : Nat → Word} {blank : Word} {done : Nat}
      (hdone : done < n)
    (h : ∀ k, k < n → m.readWord (wordAddr loc k) = if k < done then w k else blank) {k : Nat} (hk : k < n) :
    (m.writeWord (wordAddr loc done) (w done)).readWord (wordAddr loc k) = if k < done + 1 then w k else blank := by
  have hkaddr := haddr k hk
  have hdaddr := haddr done hdone
  by_cases heq : k = done
  · subst heq
    rw [readWord_writeWord_same hm (by omega), if_pos k.lt_succ_self]
  · rw [readWord_writeWord_other hm (by omega) (by omega) (fun hsame => by rw [hsame] at hkaddr; omega), h k hk]
    simp only [show k < done + 1 ↔ k < done by omega]

/-- The slot a WRITE goes to is a slot. -/
theorem isSlot_target {s : State} (hs : s.Inv) (hg : s.Geom) : s.isSlot s.target = true := by
  unfold State.target
  by_cases hk : s.curv = true
  · rw [cursorNow_of_known hk]
    exact isSlot_nextLoc hg.ok hg.latched (hs.slot_of_cursor hk)
  · have hbest := scanAnswer_bestOf s
    rw [cursorNow_of_unknown (by simpa using hk)]
    cases hans : s.scanAnswer with
    | none => exact isSlot_firstLoc hg.ok hg.latched
    | some answer =>
      rw [hans] at hbest
      obtain ⟨loc, ver⟩ := answer
      obtain ⟨k, ⟨hlt, -⟩, rfl, -⟩ := hbest
      exact isSlot_nextLoc hg.ok hg.latched (isSlot_slotLoc hg.ok hg.latched hlt)

/-- The target's words are words of the flash, those of the slot among them. -/
theorem targetWords_facts {s : State} (hg : s.Geom) (hslot : s.isSlot s.target = true) :
    s.target.toNat % 4 = 0 ∧ s.slotWords.toNat ≤ s.targetWords ∧ s.target.toNat + 4 * s.targetWords ≤ 2 ^ 32 := by
  have hwords := slotWords_mul_four hg.ok hg.latched
  have hdevice := deviceWords_eq hg.ok hg.latched
  have hle := Nat.le_of_dvd (pageSize_pos hg.ok) (slotBytes_dvd_pageSize hg.ok hg.latched)
  have hbounds := isSlot_bounds hg.ok hg.latched hslot
  have hregion := (State.geomFacts hg.ok).regionEnd_le
  refine ⟨Nat.mod_eq_zero_of_dvd (four_dvd_slot hg.ok hg.latched hslot), ?_⟩
  unfold State.targetWords
  split
  case isTrue hpage =>
    have hend := (pageStart_page_end_le hg.ok hg.latched hslot hpage).2
    exact ⟨by omega, by omega⟩
  case isFalse => exact ⟨le_rfl, by omega⟩

section

variable {s u t : State} (hg : s.Geom)
include hg

/-- The answer to a program decides where WRITE goes on, and what it has stored. -/
theorem State.Storing.program {fed done drawn : Nat} {evs : List Event} {v : Word} {onOk : WLine}
    (hst : s.Storing u fed done drawn evs) (hslot : s.isSlot s.target = true) (hu : u.mem.wf = true)
    (hhw : u.hw = s.hw) (hdone : done < s.slotWords.toNat) (ha : u.wk.a = wordAddr s.target done)
    (hv : s.targetBlank = true → v = s.imageWord done) (h : programNext v onOk u = .next t) (hh : t.hung = false) :
    (t.ph = .write onOk ∧ t.wk = u.wk ∧
      s.Storing t fed (done + 1) drawn (evs ++ [.memWrite (wordAddr s.target done) (s.imageWord done) true])) ∨
    (t.ph = .write .wfRelease ∧ s.ProgramFailed t.wk.a t.cursor) := by
  obtain ⟨⟨hans, hok, hcur, hver⟩, hexact⟩ := hst
  have hreply := hans.replyAt 0
  have hframe := memWrite_frame h
  have hcursor : t.cursor = s.cursorNow := by rw [cursor_congr (sameCursor_of_flashUpdate hframe), hcur]
  obtain ⟨-, ⟨-, rfl⟩ | ⟨ok, hret, rfl⟩⟩ := memWrite_next h
  · cases hh
  rw [hret] at hreply
  cases ok
  case false =>
    right
    exact ⟨rfl, done, hdone, by simp [ha], hreply.symm, hok, hcursor⟩
  case true =>
    left
    refine ⟨rfl, by simp, ⟨⟨?_, ?_⟩, hok.succ hreply.symm, hcursor, by simpa using hver⟩, fun hb => ?_⟩
    · rw [programmed_eq]; exact hans.1
    · rw [programmed_eq]
      show u.env.replyIx + 1 = _
      rw [hans.2]; rfl
    · obtain ⟨⟨hmem, hdraws, hdix, htrace⟩, hacc⟩ := hexact hb
      obtain ⟨haligned, hle, hend⟩ := targetWords_facts hg hslot
      have hblank : u.useReply.mem.readWord u.wk.a = u.useReply.hw.erasedWord := by
        show u.mem.readWord u.wk.a = u.hw.erasedWord
        rw [ha, hmem done (hdone.trans_le hle), if_neg (lt_irrefl _), hhw]
      rw [programmed_of_blank hblank, ha, hv hb]
      refine ⟨⟨fun k hk => readWord_write_next (fun j hj => wordAddr_toNat (by omega)) haligned hu (hdone.trans_le hle)
        hmem hk, hdraws, hdix, ?_⟩, hacc⟩
      show u.trace ++ _ = _
      rw [htrace, List.append_assoc]

end

theorem counts_congr {s u : State} (h : s.sameConfig u) :
    u.slotWords = s.slotWords ∧ u.payloadWords = s.payloadWords ∧ u.fillerCount = s.fillerCount := by
  obtain ⟨-, -, -, hrec, -, hslot, -⟩ := h
  unfold State.fillerCount State.slotWords State.payloadWords
  rw [hrec, hslot]
  exact ⟨rfl, rfl, rfl⟩

section

variable {s u v : State} (hs : s.Inv) (hg : s.Geom)
include hs hg

/-- A fed word is one more. -/
theorem State.Programmed.feed {k : Nat} {w i : Word} {l : WLine} (h : s.Programmed u k) (hhw : u.hw = s.hw)
    (hk : k < s.slotWords.toNat - 1) (hw : s.targetBlank = true → w = s.bodyWord k) : s.Fed (u.feed w i l) (k + 1) := by
  obtain ⟨hgoing, hexact⟩ := h
  refine ⟨hgoing, fun hb => ?_⟩
  obtain ⟨⟨hmem, hdraws, hdix, htrace⟩, hacc⟩ := hexact hb
  refine ⟨⟨hmem, hdraws, hdix, ?_⟩, ?_⟩
  · show u.trace ++ [.crcAcc w] = _
    rw [htrace, fedEvents_succ, State.wordEvents, hw hb]
    simp only [List.append_assoc]
  · show crcStep u.hw.crc u.acc w = _
    rw [slotBody_take_succ hs hg hk, crc_append, hacc, hhw, hw hb]

/-- A filler word is drawn. -/
theorem State.Fed.draw {i : Nat} {p : Phase} {wk : Work} (h : s.Fed u (1 + s.payloadWords.toNat + i))
    (hi : i < s.fillerCount.toNat) (hwk : wk.nver = u.wk.nver) :
    s.Drawn ((u.rngNext.setWork wk).goto p) (1 + s.payloadWords.toNat + i) ∧
      (s.targetBlank = true → u.env.drawAt 0 = s.bodyWord (1 + s.payloadWords.toNat + i)) := by
  obtain ⟨⟨hans, hok, hcur, hver⟩, hexact⟩ := h
  have hdraw : s.targetBlank = true → u.env.drawAt 0 = s.bodyWord (1 + s.payloadWords.toNat + i) := by
    intro hb
    obtain ⟨⟨-, hdraws, hdix, -⟩, -⟩ := hexact hb
    rw [bodyWord_filler hs hg hi, Env.drawAt, Env.drawAt, hdraws, hdix, State.drawsFor, Nat.add_sub_cancel_left,
      Nat.add_zero]
  refine ⟨⟨⟨hans, hok, hcur, hwk.trans hver⟩, fun hb => ?_⟩, hdraw⟩
  obtain ⟨⟨hmem, hdraws, hdix, htrace⟩, hacc⟩ := hexact hb
  refine ⟨⟨hmem, hdraws, ?_, ?_⟩, hacc⟩
  · show u.env.drawIx + 1 = _
    rw [hdix, State.drawsFor, State.drawsFor]
    omega
  · show u.trace ++ [.rngNext (u.env.drawAt 0)] = _
    rw [htrace, hdraw hb]
    simp only [List.append_assoc]

omit hs in
/-- Where a program of word `done` goes on. -/
theorem State.Storing.storeAt_program {fed done drawn : Nat} {evs : List Event} {w : Word} {onOk : WLine}
    (hst : s.Storing u fed done drawn evs) (hslot : s.isSlot s.target = true) (hu : u.mem.wf = true)
    (hhw : u.hw = s.hw) (hdone : done < s.slotWords.toNat) (ha : u.wk.a = wordAddr s.target done)
    (hw : s.targetBlank = true → w = s.imageWord done)
    (hnext : v.wk = u.wk →
      s.Storing v fed (done + 1) drawn (evs ++ [.memWrite (wordAddr s.target done) (s.imageWord done) true]) →
      s.StoreAt v (.write onOk))
    (h : programNext w onOk u = .next v) (hh : v.hung = false) : s.StoreAt v v.ph := by
  obtain ⟨hp, hwk, hst'⟩ | ⟨hp, hfailed⟩ := hst.program hg hslot hu hhw hdone ha hw h hh <;> rw [hp]
  · exact hnext hwk hst'
  · exact hfailed

/-- A payload word, and the header, are programmed as they are. -/
theorem State.Fed.programmed {k : Nat} (hk : k < 1 + s.payloadWords.toNat)
    (h : s.Storing v k (k + 1) (s.drawsFor k) (s.openEvents ++ s.fedEvents k ++
      [.memWrite (wordAddr s.target k) (s.imageWord k) true])) : s.Programmed v k := by
  have hwords := slotWords_eq hg.ok hg.latched
  have hdraws : s.drawsFor (k + 1) = s.drawsFor k := by unfold State.drawsFor; omega
  rw [imageWord_body hs hg (by omega)] at h
  unfold State.Programmed
  rw [hdraws, State.pendingEvents, if_neg (by omega)]
  exact h

/-- A filler word is programmed as it was drawn. -/
theorem State.Drawn.programmed {k : Nat} (hk : 1 + s.payloadWords.toNat ≤ k) (hlast : k < s.slotWords.toNat - 1)
    (h : s.Storing v k (k + 1) (s.drawsFor (k + 1)) (s.openEvents ++ s.fedEvents k ++ [.rngNext (s.bodyWord k)] ++
      [.memWrite (wordAddr s.target k) (s.imageWord k) true])) : s.Programmed v k := by
  rw [imageWord_body hs hg hlast, List.append_assoc] at h
  unfold State.Programmed
  rw [State.pendingEvents, if_pos hk]
  exact h

end

end Sys2Proof.Machine

/-! WRITE line by line, and how it ends in a ready state. -/

namespace Sys2Proof.Machine

open Sys2Proof

section

variable {s u v : State} (hs : s.Inv) (hg : s.Geom) (hc : s.WriteCourse u)
include hc

theorem State.WriteCourse.word_addr {l : WLine} (hp : u.ph = .write l) (hl : l.allocated = true) {k : Nat}
    (ha : u.wk.a = wordAddr u.wk.nloc k) : u.wk.a = wordAddr s.target k := by rw [ha, hc.nloc hp hl]

omit hc in
/-- The slot is blank before the first program: as it was, or erased. -/
theorem exact_of_blank {evs : List Event} (hblank : ∀ k, k < s.targetWords →
      v.mem.readWord (wordAddr s.target k) = s.hw.erasedWord) (hdraws : v.env.draws = s.env.draws)
    (hdix : v.env.drawIx = s.env.drawIx) (htrace : v.trace = s.trace ++ s.scanEvents ++ evs) : s.Exact v 0 0 evs :=
  ⟨fun k hk => by rw [hblank k hk, if_neg (Nat.not_lt_zero k)], hdraws, hdix, htrace⟩

/-- W3: whether the slot begins a page. -/
theorem storeAt_w3 (hat : s.StoreAt u (.write .w3)) (hp : u.ph = .write .w3) (h : writeLine .w3 u = .next v) :
    s.StoreAt v v.ph := by
  have ⟨hlocated, hver⟩ := hat
  obtain ⟨hsame, hcursor, htrace⟩ := hlocated
  obtain ⟨-, hfirst, -, -, hsize, -, -⟩ := hsame.config
  obtain ⟨-, -, hmem, hreplies, hix, hdraws, hdix⟩ := hsame
  have hstart : u.pageStart u.wk.nloc = s.pageStart s.target := by
    rw [hc.nloc hp rfl, State.pageStart, State.pageStart, hfirst, hsize]
  cases h
  rw [State.goto_ph, hstart]
  by_cases hpage : s.pageStart s.target = true
  · rw [if_pos hpage]
    exact hat
  · rw [if_neg hpage]
    have hcalls : s.eraseCalls = 0 := if_neg hpage
    have hevents : s.eraseEvents = [] := if_neg hpage
    refine ⟨⟨⟨hreplies, by rw [hcalls]; exact hix⟩, ⟨fun h => absurd h hpage, fun k hk => absurd hk (Nat.not_lt_zero k)⟩,
      hcursor, hver⟩, fun hb => ?_⟩
    rw [hevents]
    refine exact_of_blank (fun k hk => ?_) hdraws hdix (htrace.trans (List.append_nil _).symm)
    show u.mem.readWord _ = _
    rw [State.targetWords, if_neg hpage] at hk
    simp only [State.targetBlank, hpage, Bool.false_or, List.all_eq_true, List.mem_range, State.blank, beq_iff_eq] at hb
    rw [hmem, hb k hk]

omit hc in
/-- W4: the lock is granted. -/
theorem storeAt_w4 (hat : s.StoreAt u (.write .w4)) (h : writeLine .w4 u = .next v) (hh : v.hung = false) :
    s.StoreAt v v.ph := by
  obtain ⟨⟨⟨hreplies, hix⟩, hok, hcur, hver⟩, hexact⟩ := hat
  obtain ⟨-, rfl⟩ | ⟨ok, -, rfl⟩ := lockAcquire_next h
  · cases hh
  · refine ⟨⟨⟨hreplies, ?_⟩, hok, hcur, hver⟩, fun hb => ?_⟩
    · show u.env.replyIx + 1 = _
      rw [hix]; rfl
    · obtain ⟨hmem, hdraws, hdix, htrace⟩ := hexact hb
      refine ⟨hmem, hdraws, hdix, ?_⟩
      show u.trace ++ [.lockAcquire] = _
      rw [htrace, List.append_assoc]

/-- W5: the CRC starts. -/
theorem storeAt_w5reset (hat : s.StoreAt u (.write .w5reset)) (h : writeLine .w5reset u = .next v) :
    s.StoreAt v v.ph := by
  obtain ⟨⟨hans, hok, hcur, hver⟩, hexact⟩ := hat
  have hhw := hc.frame.2.2.2
  cases h
  refine ⟨⟨⟨hans, hok, hcur, hver⟩, fun hb => ?_⟩, congrArg header hver⟩
  obtain ⟨hmem, hdraws, hdix, htrace⟩ := hexact hb
  refine ⟨⟨hmem, hdraws, ?_, ?_⟩, ?_⟩
  · rw [State.drawsFor, Nat.zero_sub]
    exact hdix
  · show u.trace ++ [.crcReset] = _
    rw [htrace]
    simp [State.openEvents, State.fedEvents]
  · show crcInit u.hw.crc = _
    rw [hhw]; rfl

/-- W3's erase: the page is blank, or the command ends. -/
theorem storeAt_w3erase (hat : s.StoreAt u (.write .w3erase)) (hp : u.ph = .write .w3erase)
    (h : writeLine .w3erase u = .next v) (hh : v.hung = false) : s.StoreAt v v.ph := by
  obtain ⟨hlocated, hver⟩ := hat
  obtain ⟨hsame, hcursor, htrace⟩ := hlocated
  obtain ⟨-, hfirst, -, -, hsize, -, -⟩ := hsame.config
  obtain ⟨-, hhw, hmem, hreplies, hix, hdraws, hdix⟩ := hsame
  have hnloc := hc.nloc hp rfl
  obtain ⟨hug, hline⟩ := hc.inv.write hp
  simp only [State.writeOk, Bool.and_eq_true] at hline
  obtain ⟨hslot, hstart⟩ := hline
  have hpage : s.pageStart s.target = true := by
    rw [hnloc, State.pageStart, hfirst, hsize] at hstart
    exact hstart
  have hcalls : s.eraseCalls = 1 := if_pos hpage
  have hevents : s.eraseEvents = [.flashErase s.target true] := if_pos hpage
  have hreply : u.env.replyAt 0 = s.env.replyAt 0 := State.Answered.replyAt (n := 0) ⟨hreplies, hix⟩ 0
  obtain ⟨haligned, hend⟩ := RegionPage.words hug (hc.inv.erases_page (.inl ⟨hp, rfl⟩)).2
  have hcursor' : v.cursor = s.cursorNow := by
    rw [cursor_congr (sameCursor_of_flashUpdate (flashErase_frame h (fun _ => rfl) (fun _ => rfl))), hcursor]
  obtain ⟨-, ⟨-, rfl⟩ | ⟨ok, hret, rfl⟩⟩ := flashErase_next h
  · cases hh
  rw [hret] at hreply
  cases ok
  case false =>
    refine ⟨hpage, hreply.symm, ?_⟩
    simp only [Bool.false_eq_true, if_false, State.goto_trace, State.accUnspecified_trace, State.emit_trace,
      State.erased_trace, State.useReply_trace, htrace, hnloc]
  case true =>
    refine ⟨⟨⟨hreplies, ?_⟩, ⟨fun _ => hreply.symm, fun k hk => absurd hk (Nat.not_lt_zero k)⟩, hcursor', hver⟩,
      fun _ => exact_of_blank (fun k hk => ?_) hdraws hdix ?_⟩
    · show u.env.replyIx + 1 = _
      rw [hix, hcalls]
    · show (u.mem.fillWords u.wk.nloc (fun _ => u.hw.erasedWord) u.deviceWords).readWord _ = _
      have hfits : k < u.deviceWords := by
        rw [State.targetWords, if_pos hpage] at hk
        rw [State.deviceWords, hhw]
        exact hk
      rw [← hnloc, readWord_fillWords hc.inv.mem_wf haligned _ hend hfits, hhw]
    · show u.trace ++ [.flashErase u.wk.nloc true] = _
      rw [htrace, hevents, hnloc]

include hg hs

/-- A line that programs word `k` of the slot. -/
theorem storeAt_program {fed done drawn : Nat} {evs : List Event} {w : Word} {l onOk : WLine} (hp : u.ph = .write l)
    (hl : l.allocated = true) (hst : s.Storing u fed done drawn evs) (hdone : done < s.slotWords.toNat)
    (ha : u.wk.a = wordAddr u.wk.nloc done) (hw : s.targetBlank = true → w = s.imageWord done)
    (hnext : v.wk = u.wk →
      s.Storing v fed (done + 1) drawn (evs ++ [.memWrite (wordAddr s.target done) (s.imageWord done) true]) →
      s.StoreAt v (.write onOk))
    (h : programNext w onOk u = .next v) (hh : v.hung = false) : s.StoreAt v v.ph :=
  hst.storeAt_program hg (isSlot_target hs hg) hc.inv.mem_wf hc.frame.2.2.2 hdone (hc.word_addr hp hl ha) hw hnext h hh

/-- The header's program and feed. -/
theorem storeAt_w5 {l : WLine} (hl : l = .w5program ∨ l = .w5feed) (hat : s.StoreAt u (.write l)) (hp : u.ph = .write l)
    (h : writeLine l u = .next v) (hh : v.hung = false) : s.StoreAt v v.ph := by
  have hwords := slotWords_eq hg.ok hg.latched
  have hzero : s.bodyWord 0 = header s.targetVersion := rfl
  obtain rfl | rfl := hl
  · obtain ⟨hst, hh0⟩ := hat
    obtain ⟨-, hline⟩ := hc.inv.write hp
    simp only [State.writeOk, Bool.and_eq_true, beq_iff_eq] at hline
    refine storeAt_program hs hg hc hp rfl hst (by omega) (hline.2.trans (wordAddr_zero _).symm) (fun _ => ?_)
      (fun hwk hst' => ?_) h hh
    · rw [imageWord_body hs hg (by omega), hzero, hh0]
    · exact ⟨State.Fed.programmed hs hg (by omega) hst', by rw [hwk, hh0]⟩
  · obtain ⟨hst, hh0⟩ := hat
    cases h
    exact hst.feed hs hg hc.frame.2.2.2 (by omega) fun _ => hh0

/-- The payload's program and feed. -/
theorem storeAt_w6 {l : WLine} (hl : l = .w6program ∨ l = .w6feed) (hat : s.StoreAt u (.write l)) (hp : u.ph = .write l)
    (h : writeLine l u = .next v) (hh : v.hung = false) : s.StoreAt v v.ph := by
  have hwords := slotWords_eq hg.ok hg.latched
  obtain ⟨-, hpayload, -⟩ := counts_congr hc.frame.1
  obtain ⟨ha, hi⟩ := hc.inv.payload_index_lt hl hp
  rw [hpayload] at hi
  have hword : u.wrec.getD u.wk.i.toNat 0 = s.bodyWord (1 + u.wk.i.toNat) := by
    rw [hc.frame.2.1, bodyWord_payload hs hg hi]
  obtain rfl | rfl := hl
  · simp only [writeLine, if_pos (payload_index_lt_wrec hc.inv hp)] at h
    refine storeAt_program hs hg hc hp rfl hat (by omega) ha (fun _ => ?_) (fun hwk hst' => ?_) h hh
    · rw [imageWord_body hs hg (by omega), hword]
    · show s.Programmed v (1 + v.wk.i.toNat)
      rw [hwk]
      exact State.Fed.programmed hs hg (by omega) hst'
  · cases h
    show s.Fed _ (1 + (u.wk.i + 1).toNat)
    rw [toNat_add_one hi, ← Nat.add_assoc]
    exact State.Programmed.feed hs hg hat hc.frame.2.2.2 (by omega) fun _ => hword

/-- The filler's draw, program and feed. -/
theorem storeAt_w7 {l : WLine} (hl : l = .w7draw ∨ l = .w7program ∨ l = .w7feed) (hat : s.StoreAt u (.write l))
    (hp : u.ph = .write l) (h : writeLine l u = .next v) (hh : v.hung = false) : s.StoreAt v v.ph := by
  have hwords := slotWords_eq hg.ok hg.latched
  obtain ⟨-, hpayload, hfiller⟩ := counts_congr hc.frame.1
  obtain ⟨ha, hi⟩ := hc.inv.filler_index_lt hl hp
  rw [hpayload] at ha
  rw [hfiller] at hi
  obtain rfl | rfl | rfl := hl
  · cases h
    exact State.Fed.draw hs hg hat hi rfl
  · obtain ⟨hst, hw⟩ := hat
    refine storeAt_program hs hg hc hp rfl hst (by omega) ha (fun hb => ?_) (fun hwk hst' => ?_) h hh
    · rw [imageWord_body hs hg (by omega), hw hb]
    · show s.Programmed v (1 + s.payloadWords.toNat + v.wk.i.toNat) ∧ (s.targetBlank = true → v.wk.w = _)
      rw [hwk]
      exact ⟨State.Drawn.programmed hs hg (by omega) (by omega) hst', hw⟩
  · obtain ⟨hst, hw⟩ := hat
    cases h
    show s.Fed _ (1 + s.payloadWords.toNat + (u.wk.i + 1).toNat)
    rw [toNat_add_one hi, ← Nat.add_assoc]
    exact State.Programmed.feed hs hg hst hc.frame.2.2.2 (by omega) hw

/-- The trailer. -/
theorem storeAt_w8 {l : WLine} (hl : l = .w8value ∨ l = .w8program) (hat : s.StoreAt u (.write l)) (hp : u.ph = .write l)
    (h : writeLine l u = .next v) (hh : v.hung = false) : s.StoreAt v v.ph := by
  have hwords := slotWords_eq hg.ok hg.latched
  obtain rfl | rfl := hl
  · obtain ⟨hgoing, hexact⟩ := hat
    have hcrc : s.targetBlank = true → u.acc = s.imageCrc := fun hb => by
      rw [(hexact hb).2, ← slotBody_length hs hg, List.take_length]; rfl
    cases h
    refine ⟨⟨hgoing, fun hb => ?_⟩, hcrc⟩
    obtain ⟨⟨hmem, hdraws, hdix, htrace⟩, hacc⟩ := hexact hb
    refine ⟨⟨hmem, hdraws, ?_, ?_⟩, hacc⟩
    · rw [State.drawsFor, show s.slotWords.toNat - 1 - (1 + s.payloadWords.toNat) = s.fillerCount.toNat by omega] at hdix
      exact hdix
    · show u.trace ++ [.crcValue u.acc] = _
      rw [htrace, hcrc hb, List.append_assoc]
  · obtain ⟨hst, ht⟩ := hat
    obtain ⟨hcount, -⟩ := counts_congr hc.frame.1
    obtain ⟨-, hline⟩ := hc.inv.write hp
    simp only [State.writeOk, Bool.and_eq_true, beq_iff_eq] at hline
    have ha : u.wk.a = wordAddr u.wk.nloc (s.slotWords.toNat - 1) := by
      rw [hline.2, hcount]
      exact trailerLoc_eq hg.ok hg.latched _
    refine storeAt_program hs hg hc hp rfl hst (by omega) ha (fun hb => ?_) (fun _ hst' => ?_) h hh
    · rw [imageWord_trailer hs hg, ht hb]
    · rw [imageWord_trailer hs hg, ← trailerLoc_eq hg.ok hg.latched, List.append_assoc,
        Nat.sub_add_cancel (by omega)] at hst'
      exact hst'

omit hs in
/-- The lines that only test a loop's index. -/
theorem storeAt_test {l : WLine} (hl : l = .w6test ∨ l = .w7test) (hat : s.StoreAt u (.write l))
    (h : writeLine l u = .next v) : s.StoreAt v v.ph := by
  have hwords := slotWords_eq hg.ok hg.latched
  obtain ⟨-, hpayload, hfiller⟩ := counts_congr hc.frame.1
  obtain rfl | rfl := hl
  · cases h
    rw [State.goto_ph]
    split
    case isTrue hi =>
      rw [hpayload] at hi
      show s.Fed u (1 + s.payloadWords.toNat)
      rw [← hi]
      exact hat
    case isFalse => exact hat
  · cases h
    rw [State.goto_ph]
    split
    case isTrue hi =>
      rw [hfiller] at hi
      have hlast : 1 + s.payloadWords.toNat + u.wk.i.toNat = s.slotWords.toNat - 1 := by rw [hi]; omega
      show s.Fed u (s.slotWords.toNat - 1)
      rw [← hlast]
      exact hat
    case isFalse => exact hat

/-- W9 and W10. -/
theorem storeAt_end {l : WLine} (hl : l = .w9 ∨ l = .w10release ∨ l = .w10complete) (hat : s.StoreAt u (.write l))
    (hp : u.ph = .write l) (h : writeLine l u = .next v) : s.StoreAt v v.ph := by
  obtain rfl | rfl | rfl := hl <;> cases h
  · obtain ⟨⟨-, hok, -, hver⟩, hexact⟩ := hat
    refine ⟨hok, ?_, fun hb => (hexact hb).1⟩
    show some (u.wk.nloc, u.wk.nver) = _
    rw [hc.nloc hp rfl, hver]
  · obtain ⟨hok, hcur, hexact⟩ := hat
    refine ⟨hok, hcur, fun hb => ?_⟩
    obtain ⟨hmem, hdraws, hdix, htrace⟩ := hexact hb
    refine ⟨hmem, hdraws, hdix, ?_⟩
    show u.trace ++ [.lockRelease] = _
    rw [htrace, storeEvents_eq hs hg, List.append_assoc]
    rfl
  · exact .inl ⟨⟨rfl, rfl, rfl, congrArg Phase.command hp, rfl⟩, hat⟩

/-- A line of WRITE, step by step. -/
theorem writeLine_storeAt {l : WLine} (hat : s.StoreAt u (.write l)) (hp : u.ph = .write l)
    (h : writeLine l u = .next v) (hh : v.hung = false) : s.StoreAt v v.ph := by
  have hline := hc.line
  rw [hp] at hline
  cases l with
  | w1 =>
    cases h
    rw [State.goto_ph]
    split
    · trivial
    · trivial
  | w2 =>
    cases h
    exact ⟨hline, (State.Located.allocate hline).2⟩
  | w3 => exact storeAt_w3 hc hat hp h
  | w3erase => exact storeAt_w3erase hc hat hp h hh
  | w3raise =>
    cases h
    exact .inr (.inl ⟨⟨rfl, rfl, rfl, congrArg Phase.command hp, hc.nloc hp rfl⟩, hat⟩)
  | w4 => exact storeAt_w4 hat h hh
  | w5reset => exact storeAt_w5reset hc hat h
  | w5program => exact storeAt_w5 hs hg hc (.inl rfl) hat hp h hh
  | w5feed => exact storeAt_w5 hs hg hc (.inr rfl) hat hp h hh
  | w6start | w7start => cases h; exact hat
  | w6test => exact storeAt_test hg hc (.inl rfl) hat h
  | w7test => exact storeAt_test hg hc (.inr rfl) hat h
  | w6program => exact storeAt_w6 hs hg hc (.inl rfl) hat hp h hh
  | w6feed => exact storeAt_w6 hs hg hc (.inr rfl) hat hp h hh
  | w7draw => exact storeAt_w7 hs hg hc (.inl rfl) hat hp h hh
  | w7program => exact storeAt_w7 hs hg hc (.inr (.inl rfl)) hat hp h hh
  | w7feed => exact storeAt_w7 hs hg hc (.inr (.inr rfl)) hat hp h hh
  | w8value => exact storeAt_w8 hs hg hc (.inl rfl) hat hp h hh
  | w8program => exact storeAt_w8 hs hg hc (.inr rfl) hat hp h hh
  | w9 => exact storeAt_end hs hg hc (.inl rfl) hat hp h
  | w10release => exact storeAt_end hs hg hc (.inr (.inl rfl)) hat hp h
  | w10complete => exact storeAt_end hs hg hc (.inr (.inr rfl)) hat hp h
  | wfRelease => cases h; exact hat
  | wfRaise =>
    cases h
    exact .inr (.inr ⟨_, ⟨rfl, rfl, rfl, congrArg Phase.command hp, rfl⟩, hat⟩)

end

/-- A call that WRITE makes never comes back: the page erase, the lock, or a program after those that succeeded. -/
def State.StoreHangs (s : State) : Prop :=
  (s.pageStart s.target = true ∧ s.env.replyAt 0 = .hangs) ∨ (s.OkUpTo 0 ∧ s.env.replyAt s.eraseCalls = .hangs) ∨
    ∃ j, j < s.slotWords.toNat ∧ s.OkUpTo j ∧ s.env.replyAt (s.eraseCalls + 1 + j) = .hangs

section

variable {s u : State} (hg : s.Geom) (hc : s.WriteCourse u)
include hg hc

/-- Which call of WRITE it is that hangs. -/
theorem storeHangs_of_hangs (hat : s.StoreAt u u.ph) (hmay : u.ph.mayHang = true) (hr : u.env.replyAt 0 = .hangs) :
    s.StoreHangs := by
  have hwords := slotWords_eq hg.ok hg.latched
  obtain ⟨-, hpayload, hfiller⟩ := counts_congr hc.frame.1
  have hprogram : ∀ {fed done drawn evs}, s.Storing u fed done drawn evs → done < s.slotWords.toNat → s.StoreHangs := by
    rintro fed done drawn evs ⟨⟨hans, hok, -⟩, -⟩ hdone
    exact .inr (.inr ⟨done, hdone, hok, (hans.replyAt 0).symm.trans hr⟩)
  unfold Phase.mayHang at hmay
  split at hmay
  case h_1 hp =>
    rw [hp] at hat
    obtain ⟨⟨hsame, -⟩, -⟩ := hat
    obtain ⟨hconfig, -, -, hreplies, hix, -⟩ := hsame
    obtain ⟨-, hline⟩ := hc.inv.write hp
    simp only [State.writeOk, Bool.and_eq_true] at hline
    have hstart := hline.2
    rw [hc.nloc hp rfl, State.pageStart, hconfig.2.1, hconfig.2.2.2.2.1] at hstart
    exact .inl ⟨hstart, (State.Answered.replyAt (n := 0) ⟨hreplies, hix⟩ 0).symm.trans hr⟩
  case h_2 hp =>
    rw [hp] at hat
    obtain ⟨⟨hans, hok, -⟩, -⟩ := hat
    exact .inr (.inl ⟨hok, (hans.replyAt 0).symm.trans hr⟩)
  case h_3 hp =>
    rw [hp] at hat
    exact hprogram hat.1 (by omega)
  case h_4 hp =>
    have hi := (hc.inv.payload_index_lt (.inl rfl) hp).2
    rw [hpayload] at hi
    rw [hp] at hat
    exact hprogram hat (by omega)
  case h_5 hp =>
    have hi := (hc.inv.filler_index_lt (.inr (.inl rfl)) hp).2
    rw [hfiller] at hi
    rw [hp] at hat
    exact hprogram hat.1 (by omega)
  case h_6 hp =>
    rw [hp] at hat
    exact hprogram hat.1 (by omega)
  case h_7 hp | h_8 hp => exact absurd hp (hc.not_erase _)
  case h_9 => cases hmay

end

/-- How WRITE, given in `s`, ends: with the slot stored, or with the failure of the page erase or of a program. -/
def State.StoreEnd (s t : State) : Prop :=
  (t.ended .write .ok .none 0 ∧ s.Stored t s.storeEvents) ∨
    (t.ended .write .ioError .pageErase s.target ∧ s.EraseFailed t) ∨
      ∃ a, t.ended .write .ioError .wordProgram a ∧ s.ProgramFailed a t.cursor

/-- The scan is no part of the store. -/
theorem scanLine_storeAt {s u v : State} (hc : s.WriteCourse u) {l : ScanLine} {c : Caller} (hp : u.ph = .scan c l)
    (h : scanLine c l u = .next v) : s.StoreAt v v.ph := by
  have hline := hc.line
  rw [hp] at hline
  cases c with
  | read => exact hline.elim
  | write =>
    obtain ⟨l', hp', -⟩ | ⟨-, ⟨hp', -⟩ | ⟨hp', -⟩⟩ := scanLine_scanAt hc.inv hline hp h <;> rw [hp'] <;> trivial

/-- What every state keeps on the way from a WRITE given in `s` to its end, while no call hangs. -/
def State.StoreRuns (s u : State) : Prop := u.hung = false ∧ s.WriteCourse u ∧ s.StoreAt u u.ph

theorem tick_storeRuns {s u v : State} (hs : s.Inv) (hg : s.Geom) (hu : s.StoreRuns u)
    (hcommand : u.ph.command = some .write) (hh : v.hung = false) (h : tick u = .next v) : s.StoreRuns v := by
  obtain ⟨hhu, hc, hat⟩ := hu
  have hbusy : u.ph ≠ .idle := fun hidle => by rw [hidle] at hcommand; cases hcommand
  refine ⟨hh, tick_writeCourse hc hbusy hhu h, ?_⟩
  unfold tick at h
  split at h
  case h_3 hp => exact scanLine_storeAt hc hp h
  case h_5 hp => exact writeLine_storeAt hs hg hc (hp ▸ hat) hp h hh
  all_goals rename_i hp; rw [hp] at hcommand; cases hcommand

/-- WRITE in a ready state comes to its end, or to a call that never returns. -/
theorem exec_write_cases {s : State} (hr : s.ready = true) : ∃ t, exec .write s = .next t ∧ t.Over .write ∧
    ((s.StoreEnd t ∧ s.WriteCourse t) ∨ s.StoreHangs) := by
  obtain ⟨hs, hidle, hh, hmoves, hg⟩ := (State.ready_iff s).1 hr
  have hstart : s.StoreRuns (s.goto (firstLine .write)) :=
    ⟨hh, ⟨goto_firstLine_inv hs (((State.ready_iff s).1 hr).allows rfl), storeFrame_refl s, State.Begun.refl s,
      fun _ _ => rfl⟩, trivial⟩
  obtain ⟨t, ht, hover, ⟨hend, -, hc, hat⟩ | ⟨u, -, ⟨-, hc, hat⟩, hmay, hreply, -⟩⟩ :=
    exec_over (i := .write) rfl (fun _ _ _ => tick_storeRuns hs hg) hr hstart
  · rw [hend] at hat
    exact ⟨t, ht, hover, .inl ⟨hat, hc⟩⟩
  · exact ⟨t, ht, hover, .inr (storeHangs_of_hangs hg hc hat hmay hreply)⟩

/-! The answers, as the statements give them. -/

theorem allOk_iff (e : Env) (n : Nat) : e.allOk n = true ↔ ∀ k, k < n → e.replyAt k = .returns true := by
  simp [Env.allOk]

theorem cursor_eq_some_iff {s : State} {loc : Word} {ver : Ver} :
    s.cursor = some (loc, ver) ↔ s.curv = true ∧ s.curLoc = loc ∧ s.curVer = ver := by
  rw [State.cursor]
  split <;> simp [*]

/-- An idle block holds no lock. -/
theorem State.Inv.idle_lock {s : State} (hs : s.Inv) (hidle : s.ph = .idle) : s.lockh = false ∧ s.ctrlHeld = false := by
  have hlock := (State.lockOk_iff s).1 hs.lock
  rw [hidle] at hlock
  exact hlock

/-- With every answer `ok`, WRITE stores the slot. -/
theorem exec_write_of_allOk {s : State} (hr : s.ready = true) (hok : s.env.allOk s.writeCalls = true) :
    ∃ t, exec .write s = .next t ∧ t.Over .write ∧ t.ended .write .ok .none 0 ∧ s.Stored t s.storeEvents ∧
      s.WriteCourse t := by
  rw [allOk_iff] at hok
  have hcalls : s.writeCalls = s.eraseCalls + 1 + s.slotWords.toNat := rfl
  obtain ⟨t, ht, hover, ⟨hend, hc⟩ | hhangs⟩ := exec_write_cases hr
  · obtain ⟨hended, hstored⟩ | ⟨-, -, hfail, -⟩ | ⟨a, -, j, hj, -, hfail, -⟩ := hend
    · exact ⟨t, ht, hover, hended, hstored, hc⟩
    · rw [hok 0 (by omega)] at hfail
      cases hfail
    · rw [hok _ (by omega)] at hfail
      cases hfail
  · obtain ⟨-, hh⟩ | ⟨-, hh⟩ | ⟨j, hj, -, hh⟩ := hhangs <;> (rw [hok _ (by omega)] at hh; cases hh)

/-- Settles O30: the words are programmed whatever the flash holds; W9 moves the Cursor. -/
theorem writeMovesTheCursor : Obligations.WriteMovesTheCursor := by
  intro s hr hok
  obtain ⟨t, ht, hover, hended, ⟨-, hcursor, -⟩, hc⟩ := exec_write_of_allOk hr hok
  obtain ⟨hk, hloc, hver⟩ := cursor_eq_some_iff.1 hcursor
  obtain ⟨hlock, hheld⟩ := hover.inv.idle_lock hended.1
  obtain ⟨-, hwrec, hrrec, -⟩ := hc.frame
  exact ⟨t, ht, hended, hk, hloc, hver, hlock, hheld, hwrec, hrrec⟩

/-- Settles O32: only the failure of the page erase agrees with that answer. -/
theorem writeReportsAFailedPageErase : Obligations.WriteReportsAFailedPageErase := by
  intro s hr hpage hreply
  have hnot : ∀ n, ¬ s.OkUpTo n := fun n hok => by
    rw [hok.1 hpage] at hreply
    cases hreply
  obtain ⟨t, ht, hover, ⟨hend, -⟩ | hhangs⟩ := exec_write_cases hr
  · obtain ⟨-, hok, -⟩ | ⟨hended, -, -, htrace⟩ | ⟨a, -, j, -, -, -, hok, -⟩ := hend
    · exact absurd hok (hnot _)
    · exact ⟨t, ht, hended, (hover.inv.idle_lock hended.1).1, htrace⟩
    · exact absurd hok (hnot _)
  · obtain ⟨-, hh⟩ | ⟨hok, -⟩ | ⟨j, -, hok, -⟩ := hhangs
    · rw [hreply] at hh
      cases hh
    · exact absurd hok (hnot _)
    · exact absurd hok (hnot _)

/-- Settles O33: only the failure of program `j` agrees with those answers. -/
theorem writeReportsAFailedProgram : Obligations.WriteReportsAFailedProgram := by
  intro s j hr hj hok hreply
  change s.env.allOk (s.eraseCalls + 1 + j) = true at hok
  change s.env.replyAt (s.eraseCalls + 1 + j) = .returns false at hreply
  rw [allOk_iff] at hok
  have hnot : ∀ n, j < n → ¬ s.OkUpTo n := fun n hjn hupto => by
    rw [hupto.2 j hjn] at hreply
    cases hreply
  have hzero : s.env.replyAt 0 = .returns true := hok 0 (by omega)
  obtain ⟨t, ht, hover, ⟨hend, hc⟩ | hhangs⟩ := exec_write_cases hr
  · obtain ⟨-, hupto, -⟩ | ⟨-, -, hfail, -⟩ | ⟨a, hended, i, hi, rfl, hfail, hupto, hcursor⟩ := hend
    · exact absurd hupto (hnot _ hj)
    · rw [hzero] at hfail
      cases hfail
    · obtain hij | rfl | hij := Nat.lt_trichotomy i j
      · rw [hok _ (by omega)] at hfail
        cases hfail
      · obtain ⟨hlock, hheld⟩ := hover.inv.idle_lock hended.1
        refine ⟨t, ht, hended, hlock, hheld, ?_, fun loc ver h => ?_, fun a ha hpage => hc.outside a ⟨ha, ?_⟩⟩
        · rw [← hcursor, State.cursor]
          split <;> simp [*]
        · exact (cursor_eq_some_iff.1 (hcursor.trans h)).2
        · rintro ⟨hstart, -⟩
          rw [hpage] at hstart
          cases hstart
      · exact absurd hupto (hnot _ hij)
  · obtain ⟨-, hh⟩ | ⟨-, hh⟩ | ⟨i, hi, hupto, hh⟩ := hhangs
    · rw [hzero] at hh
      cases hh
    · rw [hok _ (by omega)] at hh
      cases hh
    · obtain hij | rfl | hij := Nat.lt_trichotomy i j
      · rw [hok _ (by omega)] at hh
        cases hh
      · rw [hreply] at hh
        cases hh
      · exact absurd hupto (hnot _ hij)

/-! The slot after a WRITE onto blank words. -/

section

variable {s t : State} (hs : s.Inv) (hg : s.Geom) (hc : s.WriteCourse t)
  (hmem : ∀ k, k < s.slotWords.toNat → t.mem.readWord (wordAddr s.target k) = s.imageWord k)
include hs hg hmem

theorem readWords_of_image : t.mem.readWords s.target s.slotWords.toNat = s.slotImage := by
  refine List.ext_getElem (by rw [readWords_length, slotImage_length hs hg]) fun k hk hk' => ?_
  rw [readWords_length] at hk
  simp only [Memory.readWords, List.getElem_map, List.getElem_range]
  rw [hmem k hk, State.imageWord, List.getD_eq_getElem _ _ hk']

theorem readWords_of_body : t.mem.readWords s.target (s.slotWords.toNat - 1) = s.slotBody := by
  have hwords := slotWords_eq hg.ok hg.latched
  have himage := readWords_of_image hs hg hmem
  rw [show s.slotWords.toNat = s.slotWords.toNat - 1 + 1 by omega, readWords_succ, State.slotImage] at himage
  exact (List.append_inj' himage rfl).1

include hc

/-- The slot is valid and has its version. -/
theorem validAt_of_image : t.validAt s.target = true ∧ t.versionAt s.target = s.targetVersion := by
  have hwords := slotWords_eq hg.ok hg.latched
  obtain ⟨hcount, -⟩ := counts_congr hc.frame.1
  have hheader : t.mem.readWord s.target = header s.targetVersion := by
    have hfirst := hmem 0 (by omega)
    rw [wordAddr_zero, imageWord_body hs hg (by omega)] at hfirst
    exact hfirst
  refine ⟨(validAt_iff t _).2 ⟨?_, ?_⟩, ?_⟩
  · rw [hheader, headerMagic_header]
  · have hlast := hmem (s.slotWords.toNat - 1) (by omega)
    rw [imageWord_trailer hs hg] at hlast
    rw [State.trailerLoc, hcount, ← State.trailerLoc, trailerLoc_eq hg.ok hg.latched, hlast, State.slotCrc, hcount,
      slotWords_sub_one_toNat hg.ok hg.latched, readWords_of_body hs hg hmem, hc.frame.2.2.2]
    rfl
  · rw [State.versionAt, hheader, headerVersion_header]

end

/-- Settles O31: the lines store the image word by word, by the events of the words one after another. -/
theorem writeStoresTheSlotImage : Obligations.WriteStoresTheSlotImage := by
  intro s hr hok hb
  obtain ⟨hs, -, -, -, hg⟩ := (State.ready_iff s).1 hr
  obtain ⟨t, ht, -, hended, ⟨-, -, hexact⟩, hc⟩ := exec_write_of_allOk hr hok
  obtain ⟨hwords, -, -, htrace⟩ := hexact hb
  obtain ⟨-, hle, -⟩ := targetWords_facts hg (isSlot_target hs hg)
  have hmem : ∀ k, k < s.slotWords.toNat → t.mem.readWord (wordAddr s.target k) = s.imageWord k :=
    fun k hk => (hwords k (hk.trans_le hle)).trans (if_pos hk)
  obtain ⟨hvalid, hver⟩ := validAt_of_image hs hg hc hmem
  exact ⟨t, ht, hended, readWords_of_image hs hg hmem, hvalid, hver, htrace⟩

end Sys2Proof.Machine

/-! WRITE, then READ, with a RESET between them or not (95_test_vectors.md T-D3). -/

namespace Sys2Proof.Machine

open Sys2Proof

/-- A command that has ended with the configuration as it was leaves a ready block ready. -/
theorem State.Over.ready {s t : State} {i : Instr} (h : t.Over i) (hidle : t.ph = .idle) (hg : s.Geom)
    (hconfig : s.sameConfig t) (hhw : t.hw = s.hw) : t.ready = true := by
  obtain ⟨hlatched, hok, -⟩ := geometry_congr hconfig hhw
  exact (State.ready_iff t).2
    ⟨h.inv, hidle, idle_not_hung h.inv hidle, h.moves, hconfig.1.trans hg.cfgd, hok.trans hg.ok,
      hlatched.trans hg.latched⟩

/-- What a WRITE onto blank words has left. -/
structure State.Written (s t : State) : Prop where
  ready : t.ready = true
  course : s.WriteCourse t
  cursor : t.cursorNow = some (s.target, s.targetVersion)
  image : ∀ k, k < s.slotWords.toNat → t.mem.readWord (wordAddr s.target k) = s.imageWord k
  blank : ∀ k, s.slotWords.toNat ≤ k → k < s.targetWords →
    t.mem.readWord (wordAddr s.target k) = s.hw.erasedWord

theorem exec_write_written {s : State} (hr : s.ready = true) (hok : s.env.allOk s.writeCalls = true)
    (hb : s.targetBlank = true) : ∃ t, exec .write s = .next t ∧ s.Written t := by
  obtain ⟨hs, -, -, -, hg⟩ := (State.ready_iff s).1 hr
  obtain ⟨t, ht, hover, hended, ⟨-, hcursor, hexact⟩, hc⟩ := exec_write_of_allOk hr hok
  obtain ⟨hwords, -⟩ := hexact hb
  obtain ⟨-, hle, -⟩ := targetWords_facts hg (isSlot_target hs hg)
  obtain ⟨hk, hloc, hver⟩ := cursor_eq_some_iff.1 hcursor
  refine ⟨t, ht, hover.ready hended.1 hg hc.frame.1 hc.frame.2.2.2, hc, ?_,
    fun k hk => (hwords k (hk.trans_le hle)).trans (if_pos hk),
    fun k hk hlt => (hwords k hlt).trans (if_neg (Nat.not_lt.2 hk))⟩
  rw [cursorNow_of_known hk, hloc, hver]

/-- The payload of the slot written is the record. -/
theorem State.Written.record {s t : State} (h : s.Written t) (hs : s.Inv) (hg : s.Geom) :
    t.mem.readWords (s.target + 4) s.payloadWords.toNat = s.record := by
  have hwords := slotWords_eq hg.ok hg.latched
  refine List.ext_getElem (by rw [readWords_length, record_length hs hg]) fun k hk hk' => ?_
  rw [readWords_length] at hk
  simp only [Memory.readWords, List.getElem_map, List.getElem_range]
  rw [add_four, wordAddr_add, h.image _ (by omega), imageWord_body hs hg (by omega), bodyWord_payload hs hg hk]
  simp only [State.record, List.getElem_take]
  exact List.getD_eq_getElem _ _ _

/-- READ delivers the record when it finds the slot written. -/
theorem read_record {s t u : State} (h : s.Written t) (hs : s.Inv) (hg : s.Geom) (hr : u.ready = true)
    (hmem : u.mem = t.mem) (hconfig : s.sameConfig u) (hnow : u.cursorNow = some (s.target, s.targetVersion)) :
    ∃ v, exec .read u = .next v ∧ v.ended .read .ok .none 0 ∧ v.curLoc = s.target ∧ v.curVer = s.targetVersion ∧
      v.rrec.take s.payloadWords.toNat = s.record := by
  obtain ⟨-, hpayload, -⟩ := counts_congr hconfig
  obtain ⟨v, hv, hended, -, hloc, hver, -, hrrec, -⟩ := exec_read_of_current hr hnow
  refine ⟨v, hv, hended, hloc, hver, ?_⟩
  rw [hrrec, hpayload, hmem, h.record hs hg]
  exact List.take_left' (record_length hs hg)

/-- Settles O56: READ trusts the Cursor that WRITE moved, and copies the payload that WRITE stored. -/
theorem writeThenReadReturnsTheRecord : Obligations.WriteThenReadReturnsTheRecord := by
  intro s hr hok hb
  obtain ⟨hs, -, -, -, hg⟩ := (State.ready_iff s).1 hr
  obtain ⟨t, ht, hw⟩ := exec_write_written hr hok hb
  obtain ⟨u, hu, hended, -, -, hrec⟩ := read_record hw hs hg hw.ready rfl hw.course.frame.1 hw.cursor
  exact ⟨t, u, ht, hu, hended, hrec⟩

/-! A scan after the WRITE finds the slot written. -/

section

variable {s t : State} (hconfig : s.sameConfig t)
include hconfig

theorem slotLoc_congr (j : Nat) : t.slotLoc j = s.slotLoc j := by
  obtain ⟨-, hfirst, -, -, -, hslot, -⟩ := hconfig
  rw [State.slotLoc, State.slotLoc, State.slotAddr, State.slotAddr, hfirst, hslot]

/-- A slot whose bytes are as they were is as valid as it was, with the version it had. -/
theorem slot_congr (hhw : t.hw = s.hw) (hg : s.Geom) {loc : Word} (hslot : s.isSlot loc = true)
    (h : ∀ a, inWords loc s.slotWords.toNat a → t.mem.readByte a = s.mem.readByte a) :
    t.validAt loc = s.validAt loc ∧ t.versionAt loc = s.versionAt loc := by
  have hwords := slotWords_eq hg.ok hg.latched
  obtain ⟨hcount, -⟩ := counts_congr hconfig
  have hword : ∀ k, k < s.slotWords.toNat → t.mem.readWord (wordAddr loc k) = s.mem.readWord (wordAddr loc k) := by
    intro k hk
    have hnat := slotWord_toNat hg.ok hg.latched hslot hk
    exact readWord_congr (slotWord_aligned hg.ok hg.latched hslot hk) fun b hb hb' => h b ⟨by omega, by omega⟩
  have hfirst : t.mem.readWord loc = s.mem.readWord loc := by
    have hzero := hword 0 (by omega)
    rwa [wordAddr_zero] at hzero
  have htrailer : t.trailerLoc loc = s.trailerLoc loc := by rw [State.trailerLoc, State.trailerLoc, hcount]
  have hcrc : t.slotCrc loc = s.slotCrc loc := by
    rw [State.slotCrc, State.slotCrc, hcount, hhw, slotWords_sub_one_toNat hg.ok hg.latched]
    exact congrArg _ (List.map_congr_left fun k hk => hword k (by rw [List.mem_range] at hk; omega))
  refine ⟨?_, by rw [State.versionAt, State.versionAt, hfirst]⟩
  rw [State.validAt, State.validAt, hcrc, htrailer, hfirst, trailerLoc_eq hg.ok hg.latched, hword _ (by omega)]

end

/-- An erased word is no header (00_scope.md R6). -/
theorem erasedWord_no_header {p : Params} (h : paramsOk p = true) : headerMagic p.erasedWord ≠ Config.magic := by
  simp only [paramsOk, Bool.and_eq_true, bne_iff_ne, ne_eq] at h
  exact h.1

/-- A version that has not wrapped is greater than the one it follows. -/
theorem lt_targetVersion {s : State} (hnow : s.cursorNow = s.scanAnswer) (hver : s.targetVersion ≠ 0) :
    bestVersion s.scanAnswer < s.targetVersion := by
  unfold State.targetVersion at hver ⊢
  rw [← hnow]
  cases hc : s.cursorNow with
  | none => exact (by decide : (0 : Ver) < 1)
  | some answer =>
    obtain ⟨loc, ver⟩ := answer
    rw [hc] at hver
    show ver < nextVersion ver
    simp only [nextVersion] at hver ⊢
    bv_omega

section

variable {s t : State} (h : s.Written t) (hs : s.Inv) (hg : s.Geom)
include h hs hg

/-- After a WRITE another slot is as it was, or its header is the erased word. -/
theorem State.Written.other_slot {i j : Nat} (hi : i < s.entryCount.toNat) (htarget : s.target = s.slotLoc i)
    (hj : j < s.entryCount.toNat) (hne : j ≠ i) :
    (t.validAt (s.slotLoc j) = s.validAt (s.slotLoc j) ∧ t.versionAt (s.slotLoc j) = s.versionAt (s.slotLoc j)) ∨
      t.mem.readWord (s.slotLoc j) = s.hw.erasedWord := by
  have hjloc := slotLoc_toNat hg.ok hg.latched hj
  have hiloc := slotLoc_toNat hg.ok hg.latched hi
  have hwords := slotWords_mul_four hg.ok hg.latched
  have hdevice := deviceWords_eq hg.ok hg.latched
  obtain ⟨haligned, -, hend⟩ := targetWords_facts hg (isSlot_target hs hg)
  have hapart : j < i ∧ j * s.slotBytes.toNat + s.slotBytes.toNat ≤ i * s.slotBytes.toNat ∨
      i < j ∧ i * s.slotBytes.toNat + s.slotBytes.toNat ≤ j * s.slotBytes.toNat := by
    rw [← Nat.succ_mul, ← Nat.succ_mul]
    exact (Nat.lt_or_gt_of_ne hne).imp (fun hlt => ⟨hlt, Nat.mul_le_mul_right _ hlt⟩) fun hlt =>
      ⟨hlt, Nat.mul_le_mul_right _ hlt⟩
  by_cases hin : s.pageStart s.target = true ∧ i < j ∧ (s.slotLoc j).toNat < s.target.toNat + 4 * s.deviceWords
  · right
    obtain ⟨hpage, hlt, hin⟩ := hin
    have hjaligned := Nat.mod_eq_zero_of_dvd
      (four_dvd_slot hg.ok hg.latched (isSlot_slotLoc hg.ok hg.latched hj))
    rw [State.targetWords, if_pos hpage] at hend
    obtain ⟨k, hk⟩ : ∃ k, (s.slotLoc j).toNat = s.target.toNat + 4 * k :=
      ⟨((s.slotLoc j).toNat - s.target.toNat) / 4, by rw [htarget] at haligned ⊢; omega⟩
    have haddr : s.slotLoc j = wordAddr s.target k := BitVec.eq_of_toNat_eq (by rw [wordAddr_toNat (by omega), hk])
    rw [haddr]
    refine h.blank k ?_ (by rw [State.targetWords, if_pos hpage]; omega)
    rw [htarget] at hk
    omega
  · left
    refine slot_congr h.course.frame.1 h.course.frame.2.2.2 hg (isSlot_slotLoc hg.ok hg.latched hj) fun a ha =>
      h.course.outside a ⟨fun hin' => ?_, fun ⟨hpage, hin'⟩ => ?_⟩
    · unfold inWords at ha hin'
      rw [htarget] at hin'
      omega
    · unfold inWords at ha hin'
      have hfar : i < j → s.target.toNat + 4 * s.deviceWords ≤ (s.slotLoc j).toNat :=
        fun hlt => Nat.not_lt.1 fun hclose => hin ⟨hpage, hlt, hclose⟩
      rw [htarget] at hin' hfar
      omega

/-- On hardware whose erased word is no header, the slot written is current if its version is the greatest. -/
theorem State.Written.isCurrent (hparams : paramsOk s.hw = true) (hnow : s.cursorNow = s.scanAnswer)
    (hver : s.targetVersion ≠ 0) : ∃ i, t.IsCurrent i ∧ s.target = t.slotLoc i := by
  obtain ⟨i, hi, htarget⟩ := (isSlot_iff hg.ok hg.latched _).1 (isSlot_target hs hg)
  have hconfig := h.course.frame.1
  have hcount : t.entryCount = s.entryCount := hconfig.2.2.2.2.2.2
  have hloc := slotLoc_congr hconfig
  obtain ⟨hvalid, hversion⟩ := validAt_of_image hs hg h.course h.image
  have hgreatest := lt_targetVersion hnow hver
  rw [htarget] at hvalid hversion
  refine ⟨i, ⟨by rw [hcount]; exact hi, by rw [hloc]; exact hvalid, ?_, fun j hj hjvalid => ?_⟩,
    by rw [hloc]; exact htarget⟩
  · rw [hloc, hversion]
    bv_omega
  · rw [hloc] at hjvalid
    rw [hcount] at hj
    rw [hloc, hloc, hversion]
    by_cases heq : j = i
    · subst heq
      exact .inr ⟨hversion, le_rfl⟩
    · left
      obtain ⟨hsame, hsamever⟩ | herased := h.other_slot hs hg hi htarget hj heq
      · rw [hsame] at hjvalid
        rw [hsamever]
        exact Nat.lt_of_le_of_lt ((scanAnswer_bestOf s).version_le hj hjvalid) hgreatest
      · have hmagic := ((validAt_iff t _).1 hjvalid).1
        rw [herased] at hmagic
        exact absurd hmagic (erasedWord_no_header hparams)

end

/-- RESET leaves a ready block ready, its Cursor unknown. -/
theorem cursorReset_ready {t : State} (hr : t.ready = true) : t.cursorReset.ready = true := by
  obtain ⟨hinv, hidle, hh, hmoves, hg⟩ := (State.ready_iff t).1 hr
  have hphase : t.cursorReset.phaseOk = true := by
    rw [State.phaseOk, show t.cursorReset.ph = .idle from hidle]
  exact (State.ready_iff _).2 ⟨⟨hinv.mem_wf, hinv.lock, hinv.wrec_length, hinv.rrec_length, hinv.hung, hinv.latched,
    nofun,
    hphase⟩, hidle, hh, hmoves, hg.cfgd, hg.ok, hg.latched⟩

/-- What the scan reads is untouched by RESET. -/
theorem cursorReset_isCurrent {t : State} {i : Nat} (h : t.IsCurrent i) : t.cursorReset.IsCurrent i := h

/-- Settles O57: the slot that WRITE stored has the greatest version, so it is the one the scan finds. -/
theorem writeResetReadReturnsTheRecord : Obligations.WriteResetReadReturnsTheRecord := by
  intro s hr hok hb hparams hnow hver
  obtain ⟨hs, -, -, -, hg⟩ := (State.ready_iff s).1 hr
  obtain ⟨t, ht, hw⟩ := exec_write_written hr hok hb
  obtain ⟨-, hidle, hh, hmoves, htg⟩ := (State.ready_iff t).1 hw.ready
  obtain ⟨i, hcurrent, htarget⟩ := hw.isCurrent hs hg hparams hnow hver
  have hversion := (validAt_of_image hs hg hw.course hw.image).2
  have hfound : t.cursorReset.cursorNow = some (s.target, s.targetVersion) := by
    rw [cursorNow_of_unknown rfl, scanAnswer_of_isCurrent (cursorReset_isCurrent hcurrent), ← hversion]
    exact congrArg some (congrArg₂ Prod.mk htarget.symm (congrArg t.versionAt htarget.symm))
  obtain ⟨v, hv, hended, hloc, hver', hrec⟩ :=
    read_record hw hs hg (cursorReset_ready hw.ready) rfl hw.course.frame.1 hfound
  exact ⟨t, _, v, ht, exec_reset_of_quiet ((State.quiet_iff t).2 ⟨hidle, hh, hmoves⟩) htg.cfgd, hv, hended, hloc,
    hver', hrec⟩

end Sys2Proof.Machine

/-! ERASE in a ready state, page by page (43_erase_reset.md R160 to R162). -/

namespace Sys2Proof.Machine

open Sys2Proof

/-- The event of erasing page `p`. -/
def State.pageEvent (s : State) (p : Nat) : Event := .flashErase (s.pageAddr (BitVec.ofNat 32 p)) true

/-- The first `n` pages of the Region end here. -/
def State.pagesEnd (s : State) (n : Nat) : Nat := s.firstLoc.toNat + n * s.pageSize.toNat

/-- Every word of the first `n` pages is blank. -/
def State.PagesBlank (s : State) (m : Memory) (n : Nat) : Prop :=
  ∀ a : Word, a.toNat % 4 = 0 → s.firstLoc.toNat ≤ a.toNat → a.toNat < s.pagesEnd n → m.readWord a = s.hw.erasedWord

/-- Every byte outside the first `n` pages is as it was in `s`. -/
def State.KeptBeyond (s : State) (m : Memory) (n : Nat) : Prop :=
  ∀ a, ¬ (s.firstLoc.toNat ≤ a ∧ a < s.pagesEnd n) → m.readByte a = s.mem.readByte a

/-- The lock's answer and then `n` page erases' were taken, and the erases were answered `ok`. -/
def State.ErasesOk (s : State) (n : Nat) : Prop := ∀ k, k < n → s.env.replyAt (k + 1) = .returns true

/-- ERASE, given in `s`, has blanked the first `n` pages; `evs` are its events after them. -/
def State.Blanked (s u : State) (n : Nat) (evs : List Event) : Prop :=
  u.curv = false ∧ s.Answered u (n + 1) ∧ s.ErasesOk n ∧ s.PagesBlank u.mem n ∧ s.KeptBeyond u.mem n ∧
    u.trace = s.trace ++ [.lockAcquire] ++ (List.range n).map s.pageEvent ++ evs

/-- The erase of page `p` has failed. -/
def State.StoppedAt (s u : State) (p : Nat) : Prop :=
  u.curv = false ∧ p < s.pageCount.toNat ∧ s.env.replyAt (p + 1) = .returns false ∧ s.ErasesOk p ∧
    s.PagesBlank u.mem p ∧ s.KeptBeyond u.mem (p + 1)

/-- What ERASE, given in `s`, has done before the line `p`, and when it has ended. -/
def State.EraseAt (s u : State) : Phase → Prop
  | .erase .e1 => s.Answered u 0 ∧ u.mem = s.mem ∧ u.trace = s.trace
  | .erase .e2 => u.curv = false ∧ s.Answered u 0 ∧ u.mem = s.mem ∧ u.trace = s.trace
  | .erase .e3start => s.Blanked u 0 []
  | .erase .e3test | .erase .e3erase => s.Blanked u u.wk.i.toNat []
  | .erase .e3release | .erase .e3raise => s.StoppedAt u u.wk.i.toNat
  | .erase .e4release => s.Blanked u s.pageCount.toNat []
  | .erase .e4complete => s.Blanked u s.pageCount.toNat [.lockRelease]
  | .idle =>
    (u.ended .erase .ok .none 0 ∧ s.Blanked u s.pageCount.toNat [.lockRelease]) ∨
      ∃ p, u.ended .erase .ioError .pageErase (s.pageAddr (BitVec.ofNat 32 p)) ∧ s.StoppedAt u p
  | _ => False

/-! A page more. -/

section

variable {s : State} (hg : s.Geom) {m : Memory} (hm : m.wf = true) {p : Nat} (hp : p < s.pageCount.toNat)
include hg hm hp

/-- A page filled leaves the flash beyond it, and before it. -/
theorem fillPage_readByte (f : Nat → Word) {a : Nat} (ha : ¬ (s.pagesEnd p ≤ a ∧ a < s.pagesEnd (p + 1))) :
    (m.fillWords (s.pageAddr (BitVec.ofNat 32 p)) f s.deviceWords).readByte a = m.readByte a := by
  have haddr := pageAddr_toNat hg.ok hp
  have hend := pageAddr_end_le hg.ok hp
  have hregion := (State.geomFacts hg.ok).regionEnd_le
  have hdevice := deviceWords_eq hg.ok hg.latched
  have haligned := Nat.mod_eq_zero_of_dvd ((four_dvd_pageSize hg.ok).trans (pageAddr_dvd hg.ok hp))
  simp only [State.pagesEnd, Nat.succ_mul] at ha
  exact readByte_fillWords hm haligned f (by omega) (by omega)

theorem keptBeyond_succ (f : Nat → Word) (h : s.KeptBeyond m p) :
    s.KeptBeyond (m.fillWords (s.pageAddr (BitVec.ofNat 32 p)) f s.deviceWords) (p + 1) := by
  intro a ha
  have hlast : s.pagesEnd (p + 1) = s.pagesEnd p + s.pageSize.toNat := by
    simp only [State.pagesEnd, Nat.succ_mul, Nat.add_assoc]
  have hfirst : s.firstLoc.toNat ≤ s.pagesEnd p := Nat.le_add_right _ _
  rw [fillPage_readByte hg hm hp f (by omega), h a (by omega)]

theorem pagesBlank_of_later (f : Nat → Word) (h : s.PagesBlank m p) :
    s.PagesBlank (m.fillWords (s.pageAddr (BitVec.ofNat 32 p)) f s.deviceWords) p := by
  intro a ha hfirst hlast
  have hbefore : a.toNat + 4 ≤ s.pagesEnd p := by
    have hend : 4 ∣ s.pagesEnd p :=
      Nat.dvd_add (four_dvd_firstLoc hg.ok) (dvd_mul_of_dvd_right (four_dvd_pageSize hg.ok) p)
    omega
  rw [readWord_congr (m' := m) ha fun b _ hb' => fillPage_readByte hg hm hp f (by omega), h a ha hfirst hlast]

theorem pagesBlank_succ (h : s.PagesBlank m p) :
    s.PagesBlank (m.fillWords (s.pageAddr (BitVec.ofNat 32 p)) (fun _ => s.hw.erasedWord) s.deviceWords) (p + 1) := by
  intro a ha hfirst hlast
  by_cases hin : a.toNat < s.pagesEnd p
  · exact pagesBlank_of_later hg hm hp _ h a ha hfirst hin
  · have haddr := pageAddr_toNat hg.ok hp
    have hend := pageAddr_end_le hg.ok hp
    have hregion := (State.geomFacts hg.ok).regionEnd_le
    have hdevice := deviceWords_eq hg.ok hg.latched
    have haligned := Nat.mod_eq_zero_of_dvd ((four_dvd_pageSize hg.ok).trans (pageAddr_dvd hg.ok hp))
    simp only [State.pagesEnd, Nat.succ_mul] at hlast hin
    obtain ⟨k, hk⟩ : ∃ k, a.toNat = (s.pageAddr (BitVec.ofNat 32 p)).toNat + 4 * k :=
      ⟨(a.toNat - (s.pageAddr (BitVec.ofNat 32 p)).toNat) / 4, by omega⟩
    have hword : a = wordAddr (s.pageAddr (BitVec.ofNat 32 p)) k :=
      BitVec.eq_of_toNat_eq (by rw [wordAddr_toNat (by omega), hk])
    rw [hword]
    exact readWord_fillWords hm haligned _ (by omega) (by omega)

end

section

variable {s u v : State} (hg : s.Geom) (hc : s.EraseCourse u)
include hc

/-- The page of the index, as ERASE's statements write it. -/
theorem State.EraseCourse.pageAddr (i : Word) : u.pageAddr i = s.pageAddr (BitVec.ofNat 32 i.toNat) := by
  obtain ⟨-, hfirst, -, -, hsize, -⟩ := hc.frame.1
  rw [State.pageAddr, State.pageAddr, hfirst, hsize, BitVec.ofNat_toNat, BitVec.setWidth_eq]

theorem State.EraseCourse.index_lt {l : ELine} (hl : l = .e3erase ∨ l = .e3release ∨ l = .e3raise)
    (hp : u.ph = .erase l) :
    u.wk.i.toNat < s.pageCount.toNat := by
  obtain ⟨-, hline⟩ := hc.inv.erase hp
  rw [← hc.frame.1.2.2.1]
  obtain rfl | rfl | rfl := hl <;> exact of_decide_eq_true hline

include hg

/-- E3's erase of a page. -/
theorem eraseAt_e3erase (hat : s.EraseAt u (.erase .e3erase)) (hp : u.ph = .erase .e3erase)
    (h : eraseLine .e3erase u = .next v) (hh : v.hung = false) : s.EraseAt v v.ph := by
  obtain ⟨hcurv, ⟨hreplies, hix⟩, hok, hblank, hkept, htrace⟩ := hat
  have hi := hc.index_lt (.inl rfl) hp
  have hhw := hc.frame.2.2.2.1
  have hdevice : u.deviceWords = s.deviceWords := by rw [State.deviceWords, hhw]; rfl
  have hreply := State.Answered.replyAt ⟨hreplies, hix⟩ 0
  obtain ⟨-, ⟨-, rfl⟩ | ⟨ok, hret, rfl⟩⟩ := flashErase_next h
  · cases hh
  rw [hret] at hreply
  have hmem : (u.useReply.erased (u.pageAddr u.wk.i) ok).mem = u.mem.fillWords (s.pageAddr (BitVec.ofNat 32 u.wk.i.toNat))
      (if ok then fun _ => s.hw.erasedWord else u.env.drawAt) s.deviceWords := by
    rw [erased_mem, hc.pageAddr, ← hdevice, ← hhw]; rfl
  cases ok
  case false =>
    refine ⟨hcurv, hi, ?_, hok, ?_, ?_⟩
    · exact hreply.symm
    · show s.PagesBlank (u.useReply.erased _ _).mem _
      rw [hmem]
      exact pagesBlank_of_later hg hc.inv.mem_wf hi _ hblank
    · show s.KeptBeyond (u.useReply.erased _ _).mem _
      rw [hmem]
      exact keptBeyond_succ hg hc.inv.mem_wf hi _ hkept
  case true =>
    show s.Blanked _ (u.wk.i + 1).toNat []
    rw [toNat_add_one hi]
    refine ⟨hcurv, ⟨hreplies, ?_⟩, fun k hk => ?_, ?_, ?_, ?_⟩
    · show u.env.replyIx + 1 = _
      rw [hix]; rfl
    · obtain hk | rfl := Nat.lt_succ_iff_lt_or_eq.1 hk
      · exact hok k hk
      · exact hreply.symm
    · show s.PagesBlank (u.useReply.erased _ _).mem _
      rw [hmem]
      exact pagesBlank_succ hg hc.inv.mem_wf hi hblank
    · show s.KeptBeyond (u.useReply.erased _ _).mem _
      rw [hmem]
      exact keptBeyond_succ hg hc.inv.mem_wf hi _ hkept
    · show u.trace ++ [.flashErase (u.pageAddr u.wk.i) true] = _
      rw [htrace, List.range_succ, List.map_append, hc.pageAddr]
      simp only [List.append_assoc, List.append_nil]
      rfl

omit hg in
/-- E3's test. -/
theorem eraseAt_e3test (hat : s.EraseAt u (.erase .e3test)) (h : eraseLine .e3test u = .next v) : s.EraseAt v v.ph := by
  cases h
  rw [State.goto_ph]
  split
  case isTrue hi =>
    rw [hc.frame.1.2.2.1] at hi
    show s.Blanked u s.pageCount.toNat []
    rw [← hi]
    exact hat
  case isFalse => exact hat

/-- A line of ERASE, step by step. -/
theorem eraseLine_eraseAt {l : ELine} (hat : s.EraseAt u (.erase l)) (hp : u.ph = .erase l)
    (h : eraseLine l u = .next v) (hh : v.hung = false) : s.EraseAt v v.ph := by
  cases l with
  | e1 => cases h; exact ⟨rfl, hat⟩
  | e2 =>
    obtain ⟨hcurv, ⟨hreplies, hix⟩, hmem, htrace⟩ := hat
    obtain ⟨-, rfl⟩ | ⟨ok, -, rfl⟩ := lockAcquire_next h
    · cases hh
    · refine ⟨hcurv, ⟨hreplies, ?_⟩, fun k hk => absurd hk (Nat.not_lt_zero k), fun a _ hfirst hlast => ?_,
        fun a _ => congrArg _ hmem, ?_⟩
      · show u.env.replyIx + 1 = _
        rw [hix]
      · simp only [State.pagesEnd, Nat.zero_mul] at hlast
        omega
      · show u.trace ++ [.lockAcquire] = _
        rw [htrace]
        simp
  | e3start | e3release => cases h; exact hat
  | e3test => exact eraseAt_e3test hc hat h
  | e3erase => exact eraseAt_e3erase hg hc hat hp h hh
  | e3raise =>
    cases h
    exact .inr ⟨u.wk.i.toNat, ⟨rfl, rfl, rfl, congrArg Phase.command hp, hc.pageAddr _⟩, hat⟩
  | e4release =>
    obtain ⟨hcurv, hans, hok, hblank, hkept, htrace⟩ := hat
    cases h
    refine ⟨hcurv, hans, hok, hblank, hkept, ?_⟩
    show u.trace ++ [.lockRelease] = _
    rw [htrace, List.append_nil]
  | e4complete =>
    cases h
    exact .inl ⟨⟨rfl, rfl, rfl, congrArg Phase.command hp, rfl⟩, hat⟩

end

/-- A call that ERASE makes never comes back: the lock, or a page erase after those that succeeded. -/
def State.EraseHangs (s : State) : Prop :=
  s.env.replyAt 0 = .hangs ∨
    ∃ p, p < s.pageCount.toNat ∧ s.ErasesOk p ∧ s.env.replyAt (p + 1) = .hangs

theorem eraseHangs_of_hangs {s u : State} (hc : s.EraseCourse u) (hat : s.EraseAt u u.ph) (hmay : u.ph.mayHang = true)
    (hr : u.env.replyAt 0 = .hangs) : s.EraseHangs := by
  obtain hidle | ⟨l, hp⟩ := hc.line
  · rw [hidle] at hmay
    cases hmay
  rw [hp] at hat hmay
  cases l with
  | e2 => exact .inl ((hat.2.1.replyAt 0).symm.trans hr)
  | e3erase =>
    obtain ⟨-, hans, hok, -⟩ := hat
    have hreply := hans.replyAt 0
    exact .inr ⟨_, hc.index_lt (.inl rfl) hp, hok, hreply.symm.trans hr⟩
  | e1 | e3start | e3test | e3release | e3raise | e4release | e4complete => cases hmay

/-- What every state keeps on the way from an ERASE given in `s` to its end, while no call hangs. -/
def State.EraseRuns (s u : State) : Prop := u.hung = false ∧ s.EraseCourse u ∧ s.EraseAt u u.ph

theorem tick_eraseRuns {s u v : State} (hg : s.Geom) (hu : s.EraseRuns u) (hcommand : u.ph.command = some .erase)
    (hh : v.hung = false) (h : tick u = .next v) : s.EraseRuns v := by
  obtain ⟨hhu, hc, hat⟩ := hu
  have hbusy : u.ph ≠ .idle := fun hidle => by rw [hidle] at hcommand; cases hcommand
  refine ⟨hh, tick_eraseCourse hc hbusy hhu h, ?_⟩
  obtain hidle | ⟨l, hp⟩ := hc.line
  · exact absurd hidle hbusy
  · rw [tick, hp] at h
    exact eraseLine_eraseAt hg hc (hp ▸ hat) hp h hh

/-- ERASE in a ready state comes to its end, or to a call that never returns. -/
theorem exec_erase_cases {s : State} (hr : s.ready = true) : ∃ t, exec .erase s = .next t ∧ t.Over .erase ∧
    ((s.EraseAt t .idle ∧ s.EraseCourse t) ∨ s.EraseHangs) := by
  obtain ⟨hs, hidle, hh, hmoves, hg⟩ := (State.ready_iff s).1 hr
  have hstart : s.EraseRuns (s.goto (firstLine .erase)) :=
    ⟨hh, ⟨goto_firstLine_inv hs (((State.ready_iff s).1 hr).allows rfl), eraseFrame_refl s, .inr ⟨.e1, rfl⟩,
      fun _ _ => rfl⟩, ⟨rfl, rfl⟩, rfl, rfl⟩
  obtain ⟨t, ht, hover, ⟨hend, -, hc, hat⟩ | ⟨u, -, ⟨-, hc, hat⟩, hmay, hreply, -⟩⟩ :=
    exec_over (i := .erase) rfl (fun _ _ _ => tick_eraseRuns hg) hr hstart
  · rw [hend] at hat
    exact ⟨t, ht, hover, .inl ⟨hat, hc⟩⟩
  · exact ⟨t, ht, hover, .inr (eraseHangs_of_hangs hc hat hmay hreply)⟩

/-- With every answer `ok`, ERASE blanks the Region. -/
theorem exec_erase_of_allOk {s : State} (hr : s.ready = true) (hok : s.env.allOk (s.pageCount.toNat + 1) = true) :
    ∃ t, exec .erase s = .next t ∧ t.Over .erase ∧ t.ended .erase .ok .none 0 ∧
      s.Blanked t s.pageCount.toNat [.lockRelease] ∧ s.EraseCourse t := by
  rw [allOk_iff] at hok
  obtain ⟨t, ht, hover, ⟨⟨hended, hblanked⟩ | ⟨p, -, -, hp, hfail, -⟩, hc⟩ | hh | ⟨p, hp, -, hh⟩⟩ := exec_erase_cases hr
  · exact ⟨t, ht, hover, hended, hblanked, hc⟩
  · rw [hok _ (by omega)] at hfail
    cases hfail
  · rw [hok 0 (by omega)] at hh
    cases hh
  · rw [hok _ (by omega)] at hh
    cases hh

/-- Settles O34: the loop of E3 blanks page after page. -/
theorem eraseBlanksTheRegion : Obligations.EraseBlanksTheRegion := by
  intro s hr hok
  obtain ⟨t, ht, hover, hended, ⟨hcurv, -, -, hblank, hkept, htrace⟩, -⟩ := exec_erase_of_allOk hr hok
  obtain ⟨hlock, hheld⟩ := hover.inv.idle_lock hended.1
  exact ⟨t, ht, hended, hcurv, hlock, hheld, fun a ha hin => hblank a ha hin.1 hin.2, hkept, htrace⟩

/-- Settles O35: only the failure of page `p` agrees with those answers. -/
theorem eraseStopsAtTheFirstFailingPage : Obligations.EraseStopsAtTheFirstFailingPage := by
  intro s p hr hp hok hreply
  rw [allOk_iff] at hok
  have hnot : ∀ n, p < n → ¬ s.ErasesOk n := fun n hpn hupto => by
    rw [hupto p hpn] at hreply
    cases hreply
  obtain ⟨t, ht, hover, ⟨⟨-, -, -, hupto, -⟩ | ⟨i, hended, hcurv, hi, hfail, hupto, hblank, hkept⟩, -⟩ | hh |
    ⟨i, hi, hupto, hh⟩⟩ :=
    exec_erase_cases hr
  · exact absurd hupto (hnot _ hp)
  · obtain hip | rfl | hip := Nat.lt_trichotomy i p
    · rw [hok _ (by omega)] at hfail
      cases hfail
    · obtain ⟨hlock, hheld⟩ := hover.inv.idle_lock hended.1
      exact ⟨t, ht, hended, hcurv, hlock, hheld, hblank, hkept⟩
    · exact absurd hupto (hnot _ hip)
  · rw [hok 0 (by omega)] at hh
    cases hh
  · obtain hip | rfl | hip := Nat.lt_trichotomy i p
    · rw [hok _ (by omega)] at hh
      cases hh
    · rw [hreply] at hh
      cases hh
    · exact absurd hupto (hnot _ hip)

/-- Settles O58: in a blank Region no header has the magic byte, so the scan finds nothing. -/
theorem eraseThenReadIsNotFound : Obligations.EraseThenReadIsNotFound := by
  intro s hr hparams hok
  obtain ⟨hs, -, -, -, hg⟩ := (State.ready_iff s).1 hr
  obtain ⟨t, ht, hover, hended, ⟨hcurv, -, -, hblank, -, -⟩, hc⟩ := exec_erase_of_allOk hr hok
  have hconfig := hc.frame.1
  have hready : t.ready = true := hover.ready hended.1 hg hconfig hc.frame.2.2.2.1
  have hnone : t.scanAnswer = none := by
    cases hans : t.scanAnswer with
    | none => rfl
    | some answer =>
      have hbest := scanAnswer_bestOf t
      rw [hans] at hbest
      obtain ⟨k, ⟨hk, hvalid, -⟩, -⟩ := hbest
      rw [hconfig.2.2.2.2.2.2] at hk
      rw [slotLoc_congr hconfig] at hvalid
      have hslot := isSlot_slotLoc hg.ok hg.latched hk
      have hbounds := isSlot_bounds hg.ok hg.latched hslot
      have hpos := slotBytes_pos hg.ok hg.latched
      have hmagic := ((validAt_iff t _).1 hvalid).1
      rw [hblank _ (Nat.mod_eq_zero_of_dvd (four_dvd_slot hg.ok hg.latched hslot)) hbounds.1
        (by rw [State.pagesEnd]; omega)] at hmagic
      exact absurd hmagic (erasedWord_no_header hparams)
  obtain ⟨u, hu, hendedu, -⟩ := exec_read_of_no_current hready ((cursorNow_of_unknown hcurv).trans hnone)
  exact ⟨t, u, ht, hu, hendedu⟩

end Sys2Proof.Machine

/-! The host's register space (10_state.md R11): which offset names which register, and what an access does. -/

namespace Sys2Proof.Machine

open Sys2Proof

/-- What it says of an offset that it names the register. -/
def HostReg.At (kmax : Nat) (off : Word) : HostReg → Prop
  | .cmd => off = 0
  | .firstLoc => off = 0x10
  | .pageCount => off = 0x14
  | .recBytes => off = 0x18
  | .wrec i => i < kmax ∧ off.toNat / 4 = 0x400 + i
  | .rrec i => 0x2000 ≤ off.toNat ∧ i < kmax ∧ off.toNat / 4 = 0x800 + i
  | .unmapped => True
  | _ => off.toNat < 0x30

theorem HostReg.at_ite {kmax : Nat} {off : Word} {c : Prop} [Decidable c] {r r' : HostReg} (h : c → r.At kmax off)
    (h' : r'.At kmax off) : (if c then r else r').At kmax off := by
  split
  · exact h ‹c›
  · exact h'

theorem hostReg_at (kmax : Nat) (off : Word) : (hostReg kmax off).At kmax off := by
  have hword : ∀ v : Word, off.toNat = v.toNat → off = v := fun _ => BitVec.eq_of_toNat_eq
  have hreg : ∀ n, n < 0x30 → off.toNat = n → off.toNat < 0x30 := fun _ hn h => h ▸ hn
  exact HostReg.at_ite (hword 0) <| HostReg.at_ite (hreg _ (by decide)) <| HostReg.at_ite (hreg _ (by decide)) <|
    HostReg.at_ite (hreg _ (by decide)) <| HostReg.at_ite (hword 0x10) <| HostReg.at_ite (hword 0x14) <|
    HostReg.at_ite (hword 0x18) <| HostReg.at_ite (hreg _ (by decide)) <| HostReg.at_ite (hreg _ (by decide)) <|
    HostReg.at_ite (hreg _ (by decide)) <| HostReg.at_ite (hreg _ (by decide)) <| HostReg.at_ite (hreg _ (by decide)) <|
    HostReg.at_ite (fun h => ⟨by omega, by omega⟩) <|
    HostReg.at_ite (fun h => ⟨h.1, by omega, by omega⟩) trivial

/-- A host read: what it returned, and that only a read of `RREC` uses an unspecified value. -/
theorem hostRead_eq {off : Word} (h : off.toNat % 4 = 0) (s : State) : ∃ n,
    hostRead off s = .next { s with env := { s.env with
      reads := s.env.reads ++ [s.regValue (hostReg s.hw.kmax off)], unspecIx := n } } ∧
    ((∀ i, hostReg s.hw.kmax off ≠ .rrec i) → n = s.env.unspecIx) := by
  simp only [hostRead, (aligned_iff off).2 h, if_true]
  cases hr : hostReg s.hw.kmax off with
  | rrec i =>
    by_cases hb : s.busy = true
    · exact ⟨s.env.unspecIx + 1, by simp only [if_pos hb]; rfl, fun hno => absurd rfl (hno i)⟩
    · exact ⟨_, by simp only [if_neg hb], fun _ => rfl⟩
  | _ => exact ⟨_, rfl, fun _ => rfl⟩

/-- While a command runs a host write changes at most `ILLCMD`. -/
theorem hostWrite_while_busy {off v : Word} {s : State} (h : off.toNat % 4 = 0) (hs : s.ph ≠ .idle) :
    hostWrite off v s = .next s ∨ hostWrite off v s = .next s.illegal := by
  have hbusy := (busy_iff s).2 hs
  simp only [hostWrite, (aligned_iff off).2 h, if_true]
  cases hostReg s.hw.kmax off with
  | cmd => exact .inr (commandWrite_of_busy hs v)
  | firstLoc | pageCount | recBytes => exact .inr (configWrite_of_illegal (.inr hs) _)
  | wrec i => exact .inr (if_pos hbusy)
  | _ => exact .inl rfl

/-! Which step lands a move. -/

theorem step_of_move {s : State} {m : Timed} {ms : List Timed} (hw : s.waiting = true) (hm : s.env.moves = m :: ms) :
    step s = land m.move { s with env := { s.env with moves := ms } } := by
  unfold step stepMachine
  rw [if_pos hw, hm]

/-- Settles O59: `hostRead_eq` and `hostWrite_while_busy` for the move that lands. -/
theorem hostAccessDuringACommandChangesOnlyIllcmd : Obligations.HostAccessDuringACommandChangesOnlyIllcmd := by
  intro s k m ms off v hs hw hm hoff hmove
  rw [step_of_move hw hm]
  obtain rfl | rfl := hmove
  · obtain ⟨n, hread, -⟩ := hostRead_eq hoff { s with env := { s.env with moves := ms } }
    exact ⟨_, s.illcmd, hread, rfl, rfl, rfl, rfl, rfl, fun _ => rfl, nofun⟩
  · obtain hsame | hill := hostWrite_while_busy (v := v) hoff (s := { s with env := { s.env with moves := ms } }) hs
    · exact ⟨_, s.illcmd, hsame, rfl, rfl, rfl, rfl, rfl, nofun, fun _ => ⟨rfl, rfl, id⟩⟩
    · exact ⟨_, true, hill, rfl, rfl, rfl, rfl, rfl, nofun, fun _ => ⟨rfl, rfl, fun _ => rfl⟩⟩

/-! The windows of the record buffers. -/

theorem hostReg_rrec {kmax i : Nat} (hkmax : kmax ≤ 1024) (hi : i < kmax) :
    hostReg kmax (BitVec.ofNat 32 (0x2000 + 4 * i)) = .rrec i := by
  have hoff : (BitVec.ofNat 32 (0x2000 + 4 * i)).toNat = 0x2000 + 4 * i := by
    rw [BitVec.toNat_ofNat]; omega
  have hix : (0x2000 + 4 * i - 0x2000) / 4 = i := by omega
  simp (disch := omega) only [hostReg, hoff, hix, if_neg, if_pos]

theorem ofNat_of_toNat_eq {off : Word} {n : Nat} (h : off.toNat = n) : off = BitVec.ofNat 32 n := by
  rw [← h, BitVec.ofNat_toNat, BitVec.setWidth_eq]

/-- An aligned offset beyond the registers and outside both windows names no register. -/
theorem hostReg_unmapped {kmax : Nat} {off : Word} (h : off.toNat % 4 = 0) (hbeyond : 0x30 ≤ off.toNat)
    (hout : ∀ i, i < kmax → off.toNat ≠ 0x1000 + 4 * i ∧ off.toNat ≠ 0x2000 + 4 * i) :
    hostReg kmax off = .unmapped := by
  have hat := hostReg_at kmax off
  cases hr : hostReg kmax off with
  | unmapped => rfl
  | wrec i =>
    rw [hr] at hat
    obtain ⟨hi, hdiv⟩ := hat
    exact absurd (by omega) (hout i hi).1
  | rrec i =>
    rw [hr] at hat
    obtain ⟨-, hi, hdiv⟩ := hat
    exact absurd (by omega) (hout i hi).2
  | cmd | firstLoc | pageCount | recBytes =>
    rw [hr] at hat
    rw [show off = _ from hat] at hbeyond
    exact absurd hbeyond (by decide)
  | status | result | errAddr | pageSize | slotBytes | entryCount | curLoc | curVer =>
    rw [hr] at hat
    exact absurd hat (Nat.not_lt.2 hbeyond)

theorem curVerWord_eq (s : State) : s.curVerWord = s.curVer.zeroExtend 32 := by
  have hlt := s.curVer.isLt
  refine BitVec.eq_of_toNat_eq ?_
  rw [State.curVerWord, BitVec.toNat_append, BitVec.toNat_setWidth]
  simp
  omega

/-- Settles O12: a read returns the value of the register its offset names. -/
theorem hostReadChangesNothing : Obligations.HostReadChangesNothing := by
  intro s off hoff
  obtain ⟨n, hread, -⟩ := hostRead_eq hoff s
  refine ⟨_, _, hread, rfl, rfl, rfl, rfl, rfl, rfl, ?_, ?_, ?_, ?_, ?_, ?_, ?_, ?_, ?_, ?_, ?_, ?_,
    fun hkmax hwrec hrrec => ⟨fun i hi h => ?_, fun i hi h hidle => ?_, fun i hi h hbusy => ?_, fun hbeyond hout => ?_⟩⟩
  case refine_13 =>
    rw [ofNat_of_toNat_eq h, hostReg_wrec hkmax hi, State.regValue, List.getD_eq_getElem _ _ (hwrec ▸ hi)]
    exact List.getElem?_eq_getElem _
  case refine_14 =>
    have hfree : ¬ s.busy = true := by rw [busy_iff, hidle]; simp
    rw [ofNat_of_toNat_eq h, hostReg_rrec hkmax hi, State.regValue, if_neg hfree,
      List.getD_eq_getElem _ _ (hrrec ▸ hi)]
    exact List.getElem?_eq_getElem _
  case refine_15 =>
    rw [ofNat_of_toNat_eq h, hostReg_rrec hkmax hi]
    exact if_pos ((busy_iff s).2 hbusy)
  case refine_16 => rw [hostReg_unmapped hoff hbeyond hout]; rfl
  case refine_12 => rintro rfl; exact curVerWord_eq s
  all_goals rintro rfl; rfl

/-- Settles O14: the offsets of the writable registers, and that a write to any other names none of them. -/
theorem legalHostWritesSetTheRegister : Obligations.LegalHostWritesSetTheRegister := by
  intro s v
  refine ⟨fun hidle hcfgd => ?_, fun i hidle hkmax hi => ?_, fun off hoff hnot hwrec => ?_⟩
  · have hallowed : ¬ (s.cfgd || s.busy) = true := by simp [State.busy, hidle, hcfgd]
    exact ⟨if_neg hallowed, if_neg hallowed, if_neg hallowed⟩
  · rw [hostWrite_wrec hkmax hi, if_neg (by simp [State.busy, hidle])]
  · have hat := hostReg_at s.hw.kmax off
    simp only [hostWrite, (aligned_iff off).2 hoff, if_true]
    cases hr : hostReg s.hw.kmax off with
    | cmd | firstLoc | pageCount | recBytes =>
      rw [hr] at hat
      exact absurd (show off = _ from hat) (by rintro rfl; exact hnot (by decide))
    | wrec i =>
      rw [hr] at hat
      obtain ⟨hi, hdiv⟩ := hat
      exact absurd (by omega) (hwrec i hi)
    | _ => rfl

end Sys2Proof.Machine

/-! A command and its host meanwhile (30_encoding.md R75, R77, 70_reset_and_hazards.md R217): the lines do not
look at what the host does, so a polled command does what the command left alone does. -/

namespace Sys2Proof.Machine

open Sys2Proof

/-- `s` with other moves to come, another record of what the host read, and another `ILLCMD`. -/
def State.asHost (s : State) (b : Bool) (ms : List Timed) (rs : List Word) : State :=
  { s with illcmd := b, env := { s.env with moves := ms, reads := rs } }

/-- The same of what a line answers. -/
def hostView (b : Bool) (ms : List Timed) (rs : List Word) : Result → Result
  | .next s => .next (s.asHost b ms rs)
  | .fault f => .fault f
  | .refused r => .refused r

section

variable (s : State) (b : Bool) (ms : List Timed) (rs : List Word)

theorem memRead_asHost (addr : Word) {k : Word → State → State}
    (hk : ∀ v u, k v (u.asHost b ms rs) = (k v u).asHost b ms rs) :
    memRead addr (s.asHost b ms rs) k = hostView b ms rs (memRead addr s k) := by
  unfold memRead
  split
  · exact congrArg Host.Outcome.next (hk (s.mem.readWord addr) (s.emit (.memRead addr (s.mem.readWord addr))))
  · rfl

theorem crcBlock_asHost (addr : Word) (n : Nat) {k : Word → State → State}
    (hk : ∀ v u, k v (u.asHost b ms rs) = (k v u).asHost b ms rs) :
    crcBlock addr n (s.asHost b ms rs) k = hostView b ms rs (crcBlock addr n s k) := by
  unfold crcBlock
  split
  · exact congrArg Host.Outcome.next (hk (crc s.hw.crc (s.mem.readWords addr n))
      (s.emit (.crcBlock addr n (crc s.hw.crc (s.mem.readWords addr n)))).accUnspecified)
  · rfl

theorem programmed_asHost (addr v : Word) (ok : Bool) :
    (s.asHost b ms rs).programmed addr v ok = (s.programmed addr v ok).asHost b ms rs := by
  have hblank : (s.asHost b ms rs).blank addr = s.blank addr := rfl
  unfold State.programmed
  rw [hblank]
  split <;> rfl

theorem memWrite_asHost (addr v : Word) (p q : Phase) :
    memWrite addr v p q (s.asHost b ms rs) = hostView b ms rs (memWrite addr v p q s) := by
  have hreply : (s.asHost b ms rs).env.replyAt 0 = s.env.replyAt 0 := rfl
  have huse : (s.asHost b ms rs).useReply = s.useReply.asHost b ms rs := rfl
  unfold memWrite
  rw [hreply, huse]
  split
  · cases s.env.replyAt 0 with
    | hangs => rfl
    | returns ok => simp only [programmed_asHost]; rfl
  · rfl

theorem flashErase_asHost (addr : Word) {f g : State → State}
    (hf : ∀ u : State, f (u.asHost b ms rs) = (f u).asHost b ms rs)
    (hg : ∀ u : State, g (u.asHost b ms rs) = (g u).asHost b ms rs) :
    flashErase addr f g (s.asHost b ms rs) = hostView b ms rs (flashErase addr f g s) := by
  have hreply : (s.asHost b ms rs).env.replyAt 0 = s.env.replyAt 0 := rfl
  have hpage : (s.asHost b ms rs).isPage addr = s.isPage addr := rfl
  unfold flashErase
  rw [hreply, hpage]
  split
  · cases s.env.replyAt 0 with
    | hangs => rfl
    | returns ok =>
      cases ok
      · exact congrArg Host.Outcome.next (hg ((s.useReply.erased addr false).emit (.flashErase addr false)))
      · exact congrArg Host.Outcome.next (hf ((s.useReply.erased addr true).emit (.flashErase addr true)))
  · rfl

theorem lockAcquire_asHost (p : Phase) :
    lockAcquire p (s.asHost b ms rs) = hostView b ms rs (lockAcquire p s) := by
  have hreply : (s.asHost b ms rs).env.replyAt 0 = s.env.replyAt 0 := rfl
  unfold lockAcquire
  rw [hreply]
  cases s.env.replyAt 0 <;> rfl

/-! The lines. -/

theorem scanLine_asHost (c : Caller) (l : ScanLine) :
    scanLine c l (s.asHost b ms rs) = hostView b ms rs (scanLine c l s) := by
  have hwk : (s.asHost b ms rs).wk = s.wk := rfl
  cases l with
  | s4 | s7trailer =>
    simp only [scanLine]
    exact memRead_asHost s b ms rs _ fun _ _ => rfl
  | s7crc =>
    simp only [scanLine]
    exact crcBlock_asHost s b ms rs _ _ fun _ _ => rfl
  | s7keep | s9 =>
    simp only [scanLine, hwk]
    split <;> rfl
  | s1 | s2 | s3 | s5 | s6 | s8 => rfl

theorem readLine_asHost (l : RLine) : readLine l (s.asHost b ms rs) = hostView b ms rs (readLine l s) := by
  cases l with
  | rd2copy =>
    have htests : (s.asHost b ms rs).wk = s.wk ∧ (s.asHost b ms rs).payloadWords = s.payloadWords ∧
        (s.asHost b ms rs).rrec = s.rrec := ⟨rfl, rfl, rfl⟩
    simp only [readLine, htests]
    split
    · rfl
    · split
      · exact memRead_asHost s b ms rs _ fun _ _ => rfl
      · rfl
  | rd1 | rd1NotFound | rd2start | rd3 => rfl

theorem writeLine_asHost (l : WLine) : writeLine l (s.asHost b ms rs) = hostView b ms rs (writeLine l s) := by
  cases l with
  | w3erase => exact flashErase_asHost s b ms rs _ (fun _ => rfl) (fun _ => rfl)
  | w4 => exact lockAcquire_asHost s b ms rs _
  | w5program | w7program | w8program => exact memWrite_asHost s b ms rs _ _ _ _
  | w6program =>
    have htests : (s.asHost b ms rs).wk = s.wk ∧ (s.asHost b ms rs).wrec = s.wrec := ⟨rfl, rfl⟩
    simp only [writeLine, htests]
    split
    · exact memWrite_asHost s b ms rs _ _ _ _
    · rfl
  | w2 =>
    have hallocate : (s.asHost b ms rs).allocate = s.allocate := rfl
    rw [writeLine, hallocate]
    rfl
  | w1 | w3 | w3raise | w5reset | w5feed | w6start | w6test | w6feed | w7start | w7test | w7draw | w7feed
  | w8value | w9 | w10release | w10complete | wfRelease | wfRaise => rfl

theorem eraseLine_asHost (l : ELine) : eraseLine l (s.asHost b ms rs) = hostView b ms rs (eraseLine l s) := by
  cases l with
  | e2 => exact lockAcquire_asHost s b ms rs _
  | e3erase => exact flashErase_asHost s b ms rs _ (fun _ => rfl) (fun _ => rfl)
  | e1 | e3start | e3test | e3release | e3raise | e4release | e4complete => rfl

theorem configureLine_asHost (l : CLine) :
    configureLine l (s.asHost b ms rs) = hostView b ms rs (configureLine l s) := by
  cases l with
  | c1 =>
    have hrec : (s.asHost b ms rs).recBytes = s.recBytes := rfl
    simp only [configureLine, hrec]
    split <;> rfl
  | c2 | c3 | c4 | c5 | c6 => rfl

/-- What a line does has nothing to do with the host. -/
theorem tick_asHost : tick (s.asHost b ms rs) = hostView b ms rs (tick s) := by
  have hph : (s.asHost b ms rs).ph = s.ph := rfl
  unfold tick
  rw [hph]
  cases s.ph with
  | idle => rfl
  | configure l => exact configureLine_asHost s b ms rs l
  | scan c l => exact scanLine_asHost s b ms rs c l
  | read l => exact readLine_asHost s b ms rs l
  | write l => exact writeLine_asHost s b ms rs l
  | erase l => exact eraseLine_asHost s b ms rs l
  | reset l => cases l <;> rfl

end

/-! A run with moves to come, beside the run with none. -/

/-- A host access that does not disturb a command: a read that is not of `RREC`, or a write. -/
def Move.Polls (m : Move) : Prop :=
  ∃ off v, off.toNat % 4 = 0 ∧ (m = .hostRead off ∧ off.toNat < 0x2000 ∨ m = .hostWrite off v)

/-- Only such accesses are to come. -/
def State.Polled (s : State) : Prop := ∀ m ∈ s.env.moves, m.move.Polls

/-- The same moves are to come, some of them nearer, and `ILLCMD` is the same. -/
def State.SameMoves (s t : State) : Prop :=
  t.env.moves.map Timed.move = s.env.moves.map Timed.move ∧ t.illcmd = s.illcmd

theorem State.SameMoves.polled {s t : State} (h : s.SameMoves t) (hs : s.Polled) : t.Polled := by
  intro m hm
  have hmem : m.move ∈ s.env.moves.map Timed.move := h.1 ▸ List.mem_map_of_mem hm
  obtain ⟨m', hm', heq⟩ := List.mem_map.1 hmem
  exact heq ▸ hs m' hm'

theorem State.SameMoves.length {s t : State} (h : s.SameMoves t) : t.env.moves.length = s.env.moves.length := by
  have hlen := congrArg List.length h.1
  simpa using hlen

theorem elapse_sameMoves (s : State) : s.SameMoves s.elapse := by
  refine ⟨?_, s.elapse_illcmd⟩
  unfold State.elapse
  split
  · rfl
  case h_2 m ms hm => rw [hm]; rfl

theorem elapse_asHost (s : State) (b : Bool) (rs : List Word) : s.elapse.asHost b [] rs = s.asHost b [] rs := by
  unfold State.elapse
  split <;> rfl

/-- The sequencer left alone waits only when the command has ended or hangs. -/
theorem asHost_waiting (s : State) (b : Bool) (rs : List Word) :
    (s.asHost b [] rs).waiting = (s.ph == .idle || s.hung) := by
  simp [State.waiting, State.due, State.asHost]

theorem asHost_of_run {n : Nat} {u t : State} {b : Bool} {rs : List Word} (hw : (u.asHost b [] rs).waiting = true)
    (h : run n (u.asHost b [] rs) = .next t) : u.asHost b [] rs = t := by
  rw [run_of_waiting hw] at h
  exact Host.Outcome.next.inj h

/-- The command left alone ends in `t`; with moves to come it gets as far, or to where the next of them lands. -/
theorem run_asHost {n : Nat} {u t : State} {b : Bool} {rs : List Word} (h : run n (u.asHost b [] rs) = .next t)
    (hend : t.ph = .idle ∨ t.hung = true) : ∃ w, (∀ m, n ≤ m → run m u = .next w) ∧ u.SameMoves w ∧
      (w.asHost b [] rs = t ∨
        (w.waiting = true ∧ w.ph ≠ .idle ∧ w.hung = false ∧ ∃ k ≤ n, run k (w.asHost b [] rs) = .next t)) := by
  induction n generalizing u with
  | zero =>
    obtain rfl : u.asHost b [] rs = t := Host.Outcome.next.inj h
    have hw : u.waiting = true := by
      simp only [State.waiting, Bool.or_eq_true, beq_iff_eq]
      exact .inl hend
    exact ⟨u, fun m _ => run_of_waiting hw m, ⟨rfl, rfl⟩, .inl rfl⟩
  | succ n ih =>
    by_cases hw : u.waiting = true
    · refine ⟨u, fun m _ => run_of_waiting hw m, ⟨rfl, rfl⟩, ?_⟩
      by_cases halone : (u.asHost b [] rs).waiting = true
      · exact .inl (asHost_of_run halone h)
      · rw [asHost_waiting] at halone
        simp only [Bool.or_eq_true, beq_iff_eq, not_or, Bool.not_eq_true] at halone
        exact .inr ⟨hw, halone.1, halone.2, n + 1, le_rfl, h⟩
    · rw [Bool.not_eq_true] at hw
      obtain ⟨hbusy, hh⟩ := busy_of_not_waiting hw
      have halone : (u.asHost b [] rs).waiting = false := by rw [asHost_waiting]; simp [hbusy, hh]
      have htick := tick_asHost u b [] rs
      cases hv : tick u with
      | refused r => exact absurd hv (tick_ne_refused u r)
      | fault f =>
        rw [hv] at htick
        simp [run, halone, htick, hostView] at h
      | next v =>
        rw [hv] at htick
        rw [run_of_tick halone htick, State.elapse_of_no_moves _ rfl, ← elapse_asHost] at h
        obtain ⟨w, hrun, hsame, hres⟩ := ih h
        have hvsame : u.SameMoves v := by rw [tick_frame hv]; exact ⟨rfl, rfl⟩
        have hesame := elapse_sameMoves v
        refine ⟨w, fun m hm => ?_, ⟨hsame.1.trans (hesame.1.trans hvsame.1), hsame.2.trans (hesame.2.trans hvsame.2)⟩,
          hres.imp_right fun ⟨h1, h2, h3, k, hk, h4⟩ => ⟨h1, h2, h3, k, hk.trans n.le_succ, h4⟩⟩
        obtain ⟨m, rfl⟩ : ∃ m', m = m' + 1 := ⟨m - 1, by omega⟩
        rw [run_of_tick hw hv]
        exact hrun m (by omega)

/-- A host access that lands while a command runs. -/
theorem step_of_polls {w : State} (hw : w.waiting = true) (hbusy : w.ph ≠ .idle) {m : Timed} {ms : List Timed}
    (hm : w.env.moves = m :: ms) (hpolls : m.move.Polls) (b : Bool) (rs : List Word) : ∃ w', step w = .next w' ∧
      w'.asHost b [] rs = w.asHost b [] rs ∧ w'.env.moves = ms ∧ (w.illcmd = true → w'.illcmd = true) := by
  rw [step_of_move hw hm]
  obtain ⟨off, v, hoff, ⟨hmove, hlow⟩ | hmove⟩ := hpolls <;> rw [hmove]
  · obtain ⟨n, hread, hn⟩ := hostRead_eq hoff { w with env := { w.env with moves := ms } }
    obtain rfl := hn fun i hi => by
      have hat := hostReg_at w.hw.kmax off
      rw [show hostReg w.hw.kmax off = .rrec i from hi] at hat
      exact absurd hat.1 (Nat.not_le.2 hlow)
    exact ⟨_, hread, rfl, rfl, id⟩
  · obtain hsame | hill := hostWrite_while_busy (v := v) hoff (s := { w with env := { w.env with moves := ms } }) hbusy
    · exact ⟨_, hsame, rfl, rfl, id⟩
    · exact ⟨_, hill, rfl, rfl, fun _ => rfl⟩

/-- The next move is no power loss. -/
theorem losesPower_of_polls {w : State} {m : Timed} {ms : List Timed} (hm : w.env.moves = m :: ms)
    (hpolls : m.move.Polls) : w.losesPower = false := by
  obtain ⟨off, v, -, ⟨hmove, -⟩ | hmove⟩ := hpolls <;> simp [State.losesPower, hm, hmove]

section

variable {s t : State} {i : Instr} {b : Bool} {rs : List Word} (hend : t.ph = .idle ∨ t.hung = true)
include hend

/-- The course comes to where the command left alone comes, or to where the next move lands. -/
theorem course_to_move {n k : Nat} {u : State} (hcourse : s.Course i n u) (hbusy : u.ph ≠ .idle) (hk : k ≤ lineLimit)
    (h : run k (u.asHost b [] rs) = .next t) : ∃ n' w, s.Course i n' w ∧ u.SameMoves w ∧
      (w.asHost b [] rs = t ∨ (w.waiting = true ∧ w.ph ≠ .idle ∧ w.hung = false ∧
        ∃ k ≤ lineLimit, run k (w.asHost b [] rs) = .next t)) := by
  by_cases hw : u.waiting = true
  · refine ⟨n, u, hcourse, ⟨rfl, rfl⟩, ?_⟩
    by_cases hh : u.hung = true
    · exact .inl (asHost_of_run (by rw [asHost_waiting, hh, Bool.or_true]) h)
    · exact .inr ⟨hw, hbusy, by simpa using hh, k, hk, h⟩
  · rw [Bool.not_eq_true] at hw
    obtain ⟨w, hrun, hsame, hres⟩ := run_asHost h hend
    have hstep : step u = .next w := by
      unfold step stepMachine
      rw [if_neg (by simp [hw])]
      exact hrun lineLimit hk
    exact ⟨n + 1, w, ⟨u, hcourse, hbusy, by simp [State.losesPower, hw], hstep⟩, hsame,
      hres.imp_right fun ⟨h1, h2, h3, k', hk', h4⟩ => ⟨h1, h2, h3, k', hk'.trans hk, h4⟩⟩

/-- The course of a polled command comes to where the command left alone comes, by induction on the moves. -/
theorem course_of_polled {N n k : Nat} {u : State} (hN : u.env.moves.length = N) (hpolled : u.Polled)
    (hcourse : s.Course i n u) (hbusy : u.ph ≠ .idle) (hk : k ≤ lineLimit) (h : run k (u.asHost b [] rs) = .next t)
    (hill : s.illcmd = true → u.illcmd = true) :
    ∃ n' w, s.Course i n' w ∧ (s.illcmd = true → w.illcmd = true) ∧ w.asHost b [] rs = t := by
  induction N generalizing n k u with
  | zero =>
    obtain ⟨n', w, hcw, hsame, hdone | ⟨hw, hwbusy, hh, -⟩⟩ := course_to_move hend hcourse hbusy hk h
    · exact ⟨n', w, hcw, fun hs => hsame.2.trans (hill hs), hdone⟩
    · have hnone : w.env.moves = [] := List.length_eq_zero_iff.1 (hsame.length.trans hN)
      simp [State.waiting, State.due, hwbusy, hh, hnone] at hw
  | succ N ih =>
    obtain ⟨n', w, hcw, hsame, hdone | ⟨hw, hwbusy, -, k', hk', h'⟩⟩ := course_to_move hend hcourse hbusy hk h
    · exact ⟨n', w, hcw, fun hs => hsame.2.trans (hill hs), hdone⟩
    · obtain ⟨m, ms, hm⟩ := List.exists_cons_of_length_eq_add_one (hsame.length.trans hN)
      have hwpolled := hsame.polled hpolled
      have hpolls := hwpolled m (by rw [hm]; exact List.mem_cons_self)
      obtain ⟨w', hstep, halone, hmoves, hillw⟩ := step_of_polls hw hwbusy hm hpolls b rs
      have hph : (w'.asHost b [] rs).ph = (w.asHost b [] rs).ph := congrArg State.ph halone
      refine ih (n := n' + 1) ?_ (fun m' hm' => hwpolled m' ?_) ⟨w, hcw, hwbusy, losesPower_of_polls hm hpolls, hstep⟩
        (fun hidle => hwbusy (hph.symm.trans hidle)) hk' (halone ▸ h') fun hs => hillw (hsame.2.trans (hill hs))
      · have hlen := hsame.length.trans hN
        rw [hm, List.length_cons] at hlen
        rw [hmoves]
        omega
      · rw [hm]
        rw [hmoves] at hm'
        exact List.mem_cons_of_mem _ hm'

end

/-- Settles O60: a line does not look at what the host does, and what the host does while a command runs is
nothing a line looks at. -/
theorem hostAccessesDoNotChangeTheCommand : Obligations.HostAccessesDoNotChangeTheCommand := by
  intro s t i hidle hh hmoves h hend
  have hpolled : s.Polled := hmoves
  obtain ⟨hnot, rfl⟩ | ⟨ha, hstart⟩ := exec_cases h
  · exact ⟨0, s.illegal, exec_of_not_allowed hnot, fun _ => rfl, rfl⟩
  have hallows : s.Allows i := ha
  have halone : run lineLimit ((s.goto (firstLine i)).asHost s.illcmd [] s.env.reads) = .next t := hstart
  obtain ⟨w, hrun, hsame, hres⟩ := run_asHost halone hend
  have hcourse : s.Course i 0 w := (exec_of_allows hallows).trans (hrun lineLimit le_rfl)
  have hill : s.illcmd = true → w.illcmd = true := fun hs => hsame.2.trans hs
  obtain ⟨n, u, hcu, hillu, rfl⟩ : ∃ n u, s.Course i n u ∧ (s.illcmd = true → u.illcmd = true) ∧
      u.asHost s.illcmd [] s.env.reads = t := by
    obtain hdone | ⟨-, hbusy, -, k, hk, hk'⟩ := hres
    · exact ⟨0, w, hcourse, hill, hdone⟩
    · exact course_of_polled hend rfl (hsame.polled hpolled) hcourse hbusy hk hk' hill
  exact ⟨n, u, hcu, hillu, rfl⟩

end Sys2Proof.Machine

/-! Command words, the fields of `STATUS` and `RESULT`, the premises `GeomOK`, and what a step adds around the
commands. -/

namespace Sys2Proof.Machine

open Sys2Proof

/-! Command words (30_encoding.md R74). -/

theorem toWord_ofWord (w : Word) : (CmdWord.ofWord w).toWord = w :=
  BitVec.extractLsb'_append_extractLsb' (w := 29) (len := 3)

/-- A word without reserved bits is its opcode. -/
theorem eq_toWord_of_zero {w : Word} (h : w.extractLsb' 3 29 = 0) : w = (CmdWord.mk 0 (w.extractLsb' 0 3)).toWord := by
  rw [← h]
  exact (toWord_ofWord w).symm

theorem decode_of_zero {w : Word} (h : w.extractLsb' 3 29 = 0) : decode w = instrOfOpc (w.extractLsb' 0 3) :=
  if_pos (by rw [CmdWord.zeroOk, beq_iff_eq]; exact h)

theorem decode_of_reserved_bits {w : Word} (h : w.extractLsb' 3 29 ≠ 0) : decode w = .error .reservedBits :=
  if_neg (by rw [CmdWord.zeroOk, beq_iff_eq]; exact h)

/-- The opcodes, case by case. -/
theorem instrOfOpc_cases (opc : BitVec 3) :
    (opc = 0 ∨ opc = 6 ∨ opc = 7) ∧ instrOfOpc opc = .error (.reservedOpcode opc) ∨
      ∃ i : Instr, opc = i.opc ∧ instrOfOpc opc = .ok i := by
  unfold instrOfOpc
  split_ifs with h1 h2 h3 h4 h5
  · exact .inr ⟨.configure, h1, rfl⟩
  · exact .inr ⟨.read, h2, rfl⟩
  · exact .inr ⟨.write, h3, rfl⟩
  · exact .inr ⟨.erase, h4, rfl⟩
  · exact .inr ⟨.reset, h5, rfl⟩
  · exact .inl ⟨by bv_omega, rfl⟩

/-- Settles O1. -/
theorem decodeOfEncodeIsTheCommand : Obligations.DecodeOfEncodeIsTheCommand := by
  intro i
  cases i <;> decide

/-- Settles O2: the reserved bits first, then the opcode. -/
theorem decodeRefusesExactlyReservedWords : Obligations.DecodeRefusesExactlyReservedWords := by
  intro w
  by_cases hz : w.extractLsb' 3 29 = 0
  · have hw := eq_toWord_of_zero hz
    rw [decode_of_zero hz]
    obtain ⟨hopc, herr⟩ | ⟨i, hopc, hok⟩ := instrOfOpc_cases (w.extractLsb' 0 3)
    · refine ⟨⟨fun _ => ?_, fun _ => ⟨_, herr⟩⟩, fun i hi => by rw [herr] at hi; cases hi⟩
      obtain h | h | h := hopc <;> rw [h] at hw
      · exact .inl hw
      · exact .inr (.inl hw)
      · exact .inr (.inr (.inl hw))
    · rw [hopc] at hw
      have hword : w = encode i := hw
      refine ⟨⟨?_, fun hres => ?_⟩, fun j hj => ?_⟩
      · rintro ⟨e, he⟩
        rw [hok] at he
        cases he
      · rw [hz, hword] at hres
        cases i <;> exact absurd hres (by decide)
      · obtain rfl : i = j := Except.ok.inj (hok.symm.trans hj)
        exact hword
  · rw [decode_of_reserved_bits hz]
    exact ⟨⟨fun _ => .inr (.inr (.inr hz)), fun _ => ⟨_, rfl⟩⟩, fun i hi => by cases hi⟩

/-- Settles O3. -/
theorem tableWordsDecode : Obligations.TableWordsDecode := by
  refine ⟨?_, ?_, ?_, ?_, ?_, ?_, ?_⟩ <;> rfl

/-! Steps. -/

/-- The move that lands gives a command. -/
theorem step_of_command {s : State} {w : Word} {i : Instr} (hw : decode w = .ok i) {n : Nat} {ms : List Timed}
    (hm : s.env.moves = ⟨n, .hostWrite 0 w⟩ :: ms) (hwait : s.waiting = true) :
    step s = exec i { s with env := { s.env with moves := ms } } := by
  rw [step_of_move hwait hm]
  exact commandWrite_of_decode hw _

/-- Settles O5: the written word lands at once, and it is the command's. -/
theorem stepRunsTheDecodedCommand : Obligations.StepRunsTheDecodedCommand := by
  intro s w i hw
  refine ⟨fun n ms hm hwait => step_of_command hw hm hwait, ?_⟩
  have hword : BitVec.ofNat 32 (w.toNat % 2 ^ 32) = w := by
    rw [Nat.mod_eq_of_lt w.isLt, BitVec.ofNat_toNat, BitVec.setWidth_eq]
  have hm : (s.withFetchWord 32 w.toNat).env.moves = ⟨0, .hostWrite 0 w⟩ :: s.env.moves := by
    rw [State.withFetchWord, hword]; rfl
  have hwait : (s.withFetchWord 32 w.toNat).waiting = true := by simp [State.waiting, State.due, hm]
  exact step_of_command hw hm hwait

theorem step_of_not_waiting {s : State} (h : s.waiting = false) : step s = run lineLimit s := by
  unfold step stepMachine
  rw [if_neg (by simp [h])]

/-- Settles O6. -/
theorem stepRunsLinesOrLandsAMove : Obligations.StepRunsLinesOrLandsAMove := by
  intro s
  refine ⟨step_of_not_waiting, fun n m ms hm hw => step_of_move hw hm, fun hm hidle => ?_, rfl,
    fun off v => ⟨rfl, rfl, fun hoff => ?_⟩, fun addr v => ⟨fun hbusy => ?_, fun hidle haddr => ?_,
      fun hidle haddr hm => ?_⟩⟩
  · simp [step, stepMachine, State.waiting, hidle, hm]
  · have hnot : ¬ aligned off = true := mt (aligned_iff off).1 hoff
    exact ⟨if_neg hnot, if_neg hnot⟩
  · exact if_pos ((busy_iff s).2 hbusy)
  · rw [land, setFlash, if_neg (by simp [State.busy, hidle]), if_neg (mt (aligned_iff addr).1 haddr)]
  · refine ⟨s.mem.writeWord addr v, ?_, readWord_writeWord_same hm haddr v, fun a ha =>
      readByte_writeWord_outside hm haddr v ha⟩
    rw [land, setFlash, if_neg (by simp [State.busy, hidle]), if_pos ((aligned_iff addr).2 haddr)]
    rfl

/-- Settles O48: `tick_oneEvent`, without which event it is. -/
theorem onePortEventPerLine : Obligations.OnePortEventPerLine := fun _ _ h =>
  (tick_oneEvent h).imp_right fun ⟨e, he, _⟩ => ⟨e, he⟩

/-! The premises. -/

/-- `GeomOK` is its seven premises. -/
theorem geomOK_iff (s : State) : s.geomOK = true ↔ s.GeomFacts := by
  refine ⟨State.geomFacts, fun h => ?_⟩
  obtain ⟨k, hk⟩ := h.pageSize_pow
  have hlt : k < 32 := (Nat.pow_lt_pow_iff_right (by decide : 1 < 2)).1 (hk ▸ s.pageSize.isLt)
  simp only [State.geomOK, Geometry.ok, Geometry.p1, Geometry.p2, Geometry.p3, Geometry.p4, Geometry.p5,
    Geometry.p6, Geometry.p7, Bool.and_eq_true, decide_eq_true_eq, beq_iff_eq, List.any_eq_true]
  exact ⟨⟨⟨⟨⟨⟨Nat.mod_eq_zero_of_dvd h.pageSize_dvd_firstLoc, h.pageCount_pos⟩, h.eight_le_pageSize, k,
    List.mem_range.2 hlt, hk⟩, h.recBytes_le⟩, h.slotBytesOf_le⟩, h.region_lt, h.regionEnd_le⟩, h.recBytes_le_buffers⟩

/-- Settles O36: `geomOK_iff`, and the check each of the three commands makes. -/
theorem commandsOutsideGeomOKAreRefused : Obligations.CommandsOutsideGeomOKAreRefused := by
  intro s
  refine ⟨(geomOK_iff s).trans ⟨fun h => ?_, ?_⟩, fun hidle hcfgd hg i hi => ?_⟩
  · exact ⟨Nat.mod_eq_zero_of_dvd h.pageSize_dvd_firstLoc, h.pageCount_pos, ⟨h.eight_le_pageSize, h.pageSize_pow⟩,
      h.recBytes_le, h.slotBytesOf_le, ⟨h.region_lt, h.regionEnd_le⟩, h.recBytes_le_buffers⟩
  · rintro ⟨hfirst, hpages, ⟨height, hpow⟩, hrec, hslot, ⟨hregion, hend⟩, hbuffers⟩
    exact ⟨Nat.dvd_of_mod_eq_zero hfirst, hpages, height, hpow, hrec, hslot, hregion, hend, hbuffers⟩
  · have hneeds : needsGeometry i = true := by
      simp only [List.mem_cons, List.not_mem_nil, or_false] at hi
      obtain rfl | rfl | rfl := hi <;> rfl
    exact exec_of_outside_geometry hidle hcfgd hneeds hg

/-! The fields of `STATUS` and `RESULT`. -/

/-- The five bits of `STATUS` and the reserved ones. -/
theorem statusWord_bits (s : State) : s.statusWord.getLsbD 0 = s.busy ∧ s.statusWord.getLsbD 1 = s.cfgd ∧
    s.statusWord.getLsbD 2 = s.curv ∧ s.statusWord.getLsbD 3 = s.illcmd ∧ s.statusWord.getLsbD 4 = s.lockh ∧
    s.statusWord.extractLsb' 5 27 = 0 := by
  unfold State.statusWord
  refine ⟨?_, ?_, ?_, ?_, ?_, ?_⟩
  case refine_6 =>
    rw [BitVec.extractLsb'_append_eq_of_le (by decide), BitVec.extractLsb'_append_eq_of_le (by decide),
      BitVec.extractLsb'_append_eq_of_le (by decide), BitVec.extractLsb'_append_eq_of_le (by decide)]
    exact BitVec.extractLsb'_append_eq_left
  all_goals
    simp only [BitVec.getLsbD_append]
    simp

/-- The fields of `RESULT` and the reserved bits. -/
theorem resultWord_fields (s : State) : s.resultWord.extractLsb' 0 2 = s.kind.code ∧
    s.resultWord.extractLsb' 2 2 = s.fop.code ∧ s.resultWord.extractLsb' 4 3 = lastOpCode s.lastOp ∧
    s.resultWord.extractLsb' 7 25 = 0 := by
  unfold State.resultWord
  refine ⟨BitVec.extractLsb'_append_eq_right, ?_, ?_, ?_⟩
  · rw [BitVec.extractLsb'_append_eq_of_le (le_refl 2)]
    exact BitVec.extractLsb'_append_eq_right
  · rw [BitVec.extractLsb'_append_eq_of_le (by decide), BitVec.extractLsb'_append_eq_of_le (le_refl 2)]
    exact BitVec.extractLsb'_append_eq_right
  · rw [BitVec.extractLsb'_append_eq_of_le (by decide), BitVec.extractLsb'_append_eq_of_le (by decide)]
    exact BitVec.extractLsb'_append_eq_left

/-- Settles O11: the words' fields, and the codes of the table. -/
theorem statusAndResultFields : Obligations.StatusAndResultFields := by
  intro s
  obtain ⟨hbusy, hcfgd, hcurv, hill, hlock, hreserved⟩ := statusWord_bits s
  obtain ⟨hkind, hfop, hlast, hzero⟩ := resultWord_fields s
  refine ⟨hbusy, hcfgd, hcurv, hill, hlock, hreserved, ?_, ?_, ?_, hzero, ?_⟩
  · rw [hkind]
    cases s.kind <;> rfl
  · rw [hfop]
    cases s.fop <;> rfl
  · rw [hlast]
    cases s.lastOp with
    | none => rfl
    | some i => cases i <;> rfl
  · rw [hfop]
    cases s.fop <;> decide

end Sys2Proof.Machine
